-- ==== Sys2Proof/Word.lean ====
section
/-! DEFINITION. The words of the JL416: bytes of the register window and of the line, values of the time
counter, and the numbers of stations, slots and filter entries. -/

namespace Sys2Proof

/-- A byte of a register (R168) or of the line (R2). -/
abbrev Byte := BitVec 8

/-- A value of the 32-bit time counter (R144): a notification's time, a slot's finish time. -/
abbrev Stamp := BitVec 32

/-- Index into the station table: entry `n` describes the station with address `n + 1` (R40). -/
abbrev StationId := Fin 31

/-- Number of a request slot, 0-7 (R66). -/
abbrev SlotId := Fin 8

/-- Number of a filter entry, 0-7 (R130). -/
abbrev FilterId := Fin 8

end Sys2Proof
end

