-- ==== Sys2Proof/Config.lean ====
section
/-! DEFINITION. What the JL416 fixes for good: the capacity of its notification queue, and the register groups
that the operands of the command rows name (section 10.2).  The manual leaves no result of a command open, so
there is no free value here (log 26). -/

namespace Sys2Proof

/-- R134: the notification queue holds up to 16 entries. -/
def Config.queueCapacity : Nat := 16

/-- The request registers of the slot window other than the data port SLREQ (R66, R178). -/
inductive SlotField where
  | station | kind | priority | code | length
deriving DecidableEq, Repr

/-- The registers of the timing configuration group (R165). -/
inductive ConfigRegister where
  | rate | rwin | burst | retry | busylim | backoff | round | slowdiv | probediv | tmarkl | tmarkh
deriving DecidableEq, Repr

/-- The registers of the filter window (R130, R182). -/
inductive FilterField where
  | factv | fkinds | fslo | fshi | fclo | fchi
deriving DecidableEq, Repr

/-- The commands written to CMD (R172). -/
inductive CommandCode where
  | start | stop | hold | resume | enable | disable | clearattn | queue | withdraw | release | pop
deriving DecidableEq, Repr

/-- The codes of the command table of R172. -/
def CommandCode.code : CommandCode → Byte
  | .start => 0x01
  | .stop => 0x02
  | .hold => 0x03
  | .resume => 0x04
  | .enable => 0x10
  | .disable => 0x11
  | .clearattn => 0x12
  | .queue => 0x20
  | .withdraw => 0x21
  | .release => 0x22
  | .pop => 0x30

/-- Every command of R172, in the table's order. -/
def CommandCode.all : List CommandCode :=
  [.start, .stop, .hold, .resume, .enable, .disable, .clearattn, .queue, .withdraw, .release, .pop]

/-- R171, first check: the command that a byte written to CMD names, if any. -/
def CommandCode.ofByte? (c : Byte) : Option CommandCode :=
  CommandCode.all.find? (fun k => k.code = c)

end Sys2Proof
end

