-- ==== Sys2Proof/Syntax.lean ====
section
/-! DEFINITION. The commands of the JL416: one constructor for each row of spec/opcode_table.json.  The table
gives the rows no operands; an operand here is what the row's rule says comes from outside the part. -/

namespace Sys2Proof

inductive Instr where
  /-- DEVICE_RESET (R1): /RESET is held low, or power comes on. -/
  | deviceReset
  /-- CLK_STOP (R185). -/
  | clkStop
  /-- CLK_RESTART (R185). -/
  | clkRestart
  /-- START (R154): 0x01 is written to CMD. -/
  | start
  /-- STOP (R158): 0x02 is written to CMD. -/
  | stop
  /-- HOLD (R156): 0x03 is written to CMD. -/
  | hold
  /-- RESUME (R157): 0x04 is written to CMD. -/
  | resume
  /-- ENABLE (R58): 0x10 is written to CMD; the station number stands in CMDARG. -/
  | enable
  /-- DISABLE (R59, R60): 0x11 is written to CMD; the station number stands in CMDARG. -/
  | disable
  /-- CLEARATTN (R121): 0x12 is written to CMD; the station number stands in CMDARG. -/
  | clearattn
  /-- QUEUE (R72): 0x20 is written to CMD; the slot number stands in CMDARG. -/
  | queue
  /-- WITHDRAW (R90): 0x21 is written to CMD; the slot number stands in CMDARG. -/
  | withdraw
  /-- RELEASE (R92): 0x22 is written to CMD; the slot number stands in CMDARG. -/
  | release
  /-- POP (R138): 0x30 is written to CMD. -/
  | pop
  /-- UNKNOWN_COMMAND_CODE (R172): a byte that names no command is written to CMD. -/
  | unknownCommandCode (code : Byte)
  /-- TIME0_READ (R145): a read of address 0x13. -/
  | time0Read
  /-- SLRPLY_READ (R179): a read of address 0x28. -/
  | slrplyRead
  /-- SLREQ_WRITE (R70): a write at address 0x28. -/
  | slreqWrite (value : Byte)
  /-- SLOTSEL_WRITE (R177): a write at address 0x20. -/
  | slotselWrite (value : Byte)
  /-- SLOT_REQUEST_FIELD_WRITE (R68): a write at one of the addresses 0x22 to 0x26. -/
  | slotRequestFieldWrite (field : SlotField) (value : Byte)
  /-- CLASS_WRITE (R62): a write to STCFG, address 0x33 (log 6). -/
  | classWrite (value : Byte)
  /-- ATTENTION_MODE_WRITE (R124): a write to STCFG, address 0x33 (log 6). -/
  | attentionModeWrite (value : Byte)
  /-- CLEAR_RLATE (R174): a write to LINKSTAT with bit 6 set (log 7). -/
  | clearRlate (value : Byte)
  /-- CLEAR_WREJ (R166): a write to LINKSTAT with bit 7 set (log 7). -/
  | clearWrej (value : Byte)
  /-- CLEAR_OVR (R136): a write to ISTAT with bit 2 set (log 7). -/
  | clearOvr (value : Byte)
  /-- CLEAR_LINK (R164): a write to ISTAT with bit 3 set (log 7). -/
  | clearLink (value : Byte)
  /-- NTHRESH_WRITE (R140): a write at address 0x11. -/
  | nthreshWrite (value : Byte)
  /-- IENAB_WRITE (R176): a write at address 0x04. -/
  | ienabWrite (value : Byte)
  /-- CONFIGURATION_WRITE (R165): a write at one of the addresses 0x06 to 0x10. -/
  | configurationWrite (register : ConfigRegister) (value : Byte)
  /-- FILTER_WRITE (R133): a write at one of the addresses 0x3A to 0x3F. -/
  | filterWrite (field : FilterField) (value : Byte)
  /-- FDEFAULT_WRITE (R182): a write at address 0x12. -/
  | fdefaultWrite (value : Byte)
  /-- REGISTER_WRITE (R169): a write to any other register. -/
  | registerWrite (address : BitVec 6) (value : Byte)
  /-- BYTE_RECEIVED (R4): the receiver delivers a byte; `stopHigh` is the level sampled for its stop bit. -/
  | byteReceived (value : Byte) (stopHigh : Bool)
  /-- ECHO_LIMIT (R26). -/
  | echoLimit
  /-- RESPONSE_WINDOW_EXPIRY (R29). -/
  | responseWindowExpiry
  /-- REPLY_CUT_OFF (R30). -/
  | replyCutOff
  /-- QUIET_COUNT (R33). -/
  | quietCount
  /-- QUIET_WAIT_DEADLINE (R34). -/
  | quietWaitDeadline
  /-- TURNAROUND_GAP (R17). -/
  | turnaroundGap
  /-- SCHEDULER_CHOICE (R95). -/
  | schedulerChoice
  /-- BACKOFF_EXPIRY (R82) of one slot's backoff timer. -/
  | backoffExpiry (slot : SlotId)
  /-- ROUND_TIMER_EXPIRY (R106). -/
  | roundTimerExpiry
  /-- INTERVAL_TIMER_EXPIRY (R147). -/
  | intervalTimerExpiry
  /-- START_BIT_EDGE (R4): RXD falls. -/
  | startBitEdge
  /-- START_BIT_CONFIRMATION (R4): half a bit time after the edge RXD is sampled; `rxdLow` is that sample. -/
  | startBitConfirmation (rxdLow : Bool)
  /-- RXD_SEEN_HIGH (R4). -/
  | rxdSeenHigh
  /-- TIME_COUNTER_TICK (R144): a microsecond has passed. -/
  | timeCounterTick
  /-- RESET_RELEASED (R184): /RESET goes high; `rxdHigh` is the level of RXD then (log 23). -/
  | resetReleased (rxdHigh : Bool)
deriving DecidableEq, Repr

end Sys2Proof
end

