-- ==== Sys2Proof/Decode.lean ====
section
/-! DEFINITION. The command that a word spells by the bits of spec/opcode_table.json.  The table gives no row any
bits ("fields" is empty in all 48 rows, and no row has "fixed"), so no word spells a command (log 26). -/

namespace Sys2Proof

/-- No row of the table gives bits, so every word is refused: `none`. -/
def decodeTableWord (nbits w : Nat) : Option Instr :=
  match nbits, w with
  | _, _ => none

end Sys2Proof
end

