-- ==== Sys2Proof/Machine/State.lean ====
section
/-! DEFINITION. The state of the JL416, block by block as spec/00_scope.md's table gives the blocks, and its reset
value.  Plain data: the timers hold the instants at which they expire.  An instant is a natural number: microseconds
of running CLK since device reset, the scale of State.clock, on which the starts and ends of bytes (R4) stand too.  It
does not wrap (log 3). -/

namespace Sys2Proof.Machine

/-! ### Names -/

/-- R174: the link states. -/
inductive LinkState where
  | stopped | starting | running | holding | held | stopping | faulted
deriving DecidableEq, Repr

/-- R173: the result codes of commands. -/
inductive ResultCode where
  | ok | deferred | wrongState | badArg | notLoaded | badRequest | stationDown | tooLate | empty
deriving DecidableEq, Repr

/-- R40, R41: the states of a station entry. -/
inductive StationState where
  | unused | absent | online | degraded | isolated
deriving DecidableEq, Repr

/-- R62: polling classes. -/
inductive StationClass where
  | fast | slow | off
deriving DecidableEq, Repr

/-- R63: attention modes. -/
inductive AttentionMode where
  | level | edge
deriving DecidableEq, Repr

/-- R66, R67: the states of a slot. -/
inductive SlotState where
  | free | loaded | queued | waiting | active | done | failed
deriving DecidableEq, Repr

/-- R66: the kinds of a slot, which name the frame kind its request is sent as. -/
inductive SlotKind where
  | fetch | store | command
deriving DecidableEq, Repr

/-- R66: slot result outcomes. -/
inductive SlotOutcome where
  | none | ok | refused | noReply | badReply | busyLimit | stationLost | stationIsolated | stationDisabled | stopped
deriving DecidableEq, Repr

/-- R66: the reply kind shown in a finished slot. -/
inductive SlotReplyKind where
  | none | data | ack
deriving DecidableEq, Repr

/-- R128: notification kinds, in the order of the codes of R181 (1 upward) and of the bits of R182. -/
inductive NoteKind where
  | attn | found | lost | degraded | healthy | isolated | restored
deriving DecidableEq, Repr

/-- R130: filter actions. -/
inductive FilterAction where
  | accept | drop
deriving DecidableEq, Repr

/-- R23: the purposes of a probe. -/
inductive ProbePurpose where
  | discovery | absentStation | recovery | resync
deriving DecidableEq, Repr

/-- R35: the outcomes of an exchange. -/
inductive ExchangeOutcome where
  | good | busy | refused | miss | badReply | lineError | sent
deriving DecidableEq, Repr

/-- R94: the kinds of a round item. -/
inductive RoundItemKind where
  | poll | probe | recoveryProbe
deriving DecidableEq, Repr

/-- R12: the kinds of a station's reply. -/
inductive ReplyKind where
  | present | status | data | ack | busy | refuse
deriving DecidableEq, Repr

/-! ### Host interface unit and link controller -/

/-- R168, R185: the levels of the strobes of the host bus, which are active low; `true` is high. -/
structure Strobes where
  cs : Bool
  rd : Bool
  wr : Bool
deriving DecidableEq, Repr

/-- R184: the state the host interface unit owns.  `lastRead` is the byte the part drives onto D0-D7 for the last read
taken, until the strobes release it (R168, log 5). -/
structure HostUnit where
  cmdarg : Byte
  cmdres : ResultCode
  slotsel : SlotId
  slptr : Fin 32
  stasel : StationId
  fsel : FilterId
  ienab : BitVec 4
  lastRead : Option Byte
deriving DecidableEq, Repr

/-- R165: the timing configuration group. -/
structure TimingConfig where
  rate : Byte
  rwin : Byte
  burst : Byte
  retry : Byte
  busylim : Byte
  backoff : Byte
  round : Byte
  slowdiv : Byte
  probediv : Byte
  tmarkl : Byte
  tmarkh : Byte
deriving DecidableEq, Repr

/-- R152: the state the link controller owns. -/
structure LinkUnit where
  state : LinkState
  lineErrors : Nat
  config : TimingConfig
  link : Bool
  wrej : Bool
deriving DecidableEq, Repr

/-! ### Link scheduler -/

/-- R94: one entry of the round list. -/
structure RoundItem where
  station : StationId
  kind : RoundItemKind
deriving DecidableEq, Repr

/-- R94, R106: the round timer.  `noExpiry` is the timer of a round whose build was not empty with ROUND 0. -/
inductive RoundTimer where
  | stopped
  | running (expiresAt : Nat)
  | noExpiry
  | expired
deriving DecidableEq, Repr

/-- R94: the state the link scheduler owns. -/
structure Scheduler where
  roundList : List RoundItem
  roundTimer : RoundTimer
  roundCounter : BitVec 16
  burstCounter : Nat
  discovery : List StationId
  rlate : Bool
deriving DecidableEq, Repr

/-! ### Exchange engine and receiver -/

/-- R23, R24: what an exchange is for: its kind, its probe purpose, its target, its slot and the toggle sent. -/
inductive Job where
  | probe (purpose : ProbePurpose) (station : StationId)
  | poll (station : StationId)
  | request (slot : SlotId) (kind : SlotKind) (station : StationId) (toggle : Bool)
  | attnAck (station : StationId)
  | timeMark
deriving DecidableEq, Repr

/-- R23: the progress of the exchange in flight. -/
inductive Phase where
  /-- The frame is being sent; `compared` bytes have been read back and matched (R26). -/
  | transmitting (compared : Nat)
  /-- The frame is whole and the window timer runs to `windowExpiry` (R29). -/
  | awaitingReply (windowExpiry : Nat)
  /-- A reply began at `replyStart`; `bytes` is the reply buffer (R30). -/
  | receiving (replyStart : Nat) (bytes : List Byte)
  /-- The reply that began at `replyStart` is bad; `bytes` is the reply buffer, which is no longer filled (R30), and
  the quiet wait ends at `deadline` at the latest (R33, R34). -/
  | quietWait (replyStart : Nat) (bytes : List Byte) (deadline : Nat)
deriving DecidableEq, Repr

/-- R23: the record of the exchange in flight. -/
structure Exchange where
  job : Job
  frame : List Byte
  startedAt : Nat
  phase : Phase
deriving DecidableEq, Repr

/-- R4: a byte being assembled, from its start, at the bit time in force when its start bit was confirmed (R3). -/
structure Assembly where
  start : Nat
  bitTime : Nat
deriving DecidableEq, Repr

/-- R4, R17, R33: the receiver, and the idle count that both the turnaround gap and the quiet wait are read from
(log 12).  `idleSince` is the instant from which the count runs; the count is stopped at 0 while it is absent. -/
structure Receiver where
  edge : Option Nat
  assembling : Option Assembly
  heldLow : Bool
  lastEnd : Nat
  idleSince : Option Nat
  gapPassed : Bool
deriving DecidableEq, Repr

/-! ### Stations -/

/-- R40: an entry of the station table. -/
structure Station where
  state : StationState
  cls : StationClass
  mode : AttentionMode
  faultCounter : Nat
  missCount : Nat
  nextToggle : Bool
  resync : Bool
  disablePending : Bool
  latch : Bool
  attnCode : Byte
  ackPending : Bool
  stationType : Byte
  lastStatus : Byte
deriving DecidableEq, Repr

/-! ### Slots -/

/-- R66: a slot record.  `backoff` is the expiry of its backoff timer while that runs (R82). -/
structure Slot where
  state : SlotState
  station : BitVec 5
  kind : SlotKind
  code : Byte
  priority : BitVec 4
  ordered : Bool
  reqLen : Nat
  reqBytes : Vector Byte 32
  outcome : SlotOutcome
  reason : Byte
  replyKind : SlotReplyKind
  replyLen : Nat
  replyBytes : Vector Byte 32
  attempts : Byte
  busyCount : Nat
  failCount : Nat
  finishTime : Stamp
  backoff : Option Nat
deriving DecidableEq, Repr

/-! ### Notification unit -/

/-- R128: a notification. -/
structure Notification where
  kind : NoteKind
  station : StationId
  code : Byte
  time : Stamp
deriving DecidableEq, Repr

/-- R130: a filter entry.  Bit `k` of `kinds` stands for the kind R182 gives it. -/
structure FilterEntry where
  active : Bool
  action : FilterAction
  kinds : BitVec 7
  stationLow : StationId
  stationHigh : StationId
  codeLow : Byte
  codeHigh : Byte
deriving DecidableEq, Repr

/-- The state the notification unit owns (R130, R134, R136, R140); the head of `queue` is the oldest entry. -/
structure NotificationUnit where
  filters : Vector FilterEntry 8
  fdefault : FilterAction
  queue : List Notification
  nqovr : Byte
  ovr : Bool
  nthresh : Byte
deriving DecidableEq, Repr

/-! ### Time base -/

/-- R147: the running interval timer: its next expiry, and the interval it restarts with. -/
structure IntervalTimer where
  expiresAt : Nat
  period : Nat
deriving DecidableEq, Repr

/-- The state the time base owns (R144, R145, R147, R148). -/
structure TimeBase where
  counter : Stamp
  snapshot : Stamp
  interval : Option IntervalTimer
  pendingMark : Bool
deriving DecidableEq, Repr

/-! ### The whole part -/

/-- The state of the part.  `clock` is the model's own scale of instants (log 3); `inReset` is /RESET held low
(R184); `clkRunning` is the CLK input running (R185); `pending` is the queue of commands, first in, first out. -/
structure State where
  host : HostUnit
  link : LinkUnit
  sched : Scheduler
  engine : Option Exchange
  receiver : Receiver
  stations : Vector Station 31
  slots : Vector Slot 8
  service : List SlotId
  notes : NotificationUnit
  time : TimeBase
  clock : Nat
  inReset : Bool
  clkRunning : Bool
  pending : List Instr
deriving DecidableEq, Repr

/-- The manual gives the part no condition that stops it, so there is no fault: a refused write sets WREJ (R166),
a refused command leaves a result code (R173), and a failing line leads to FAULTED, a link state (R161). -/
inductive Fault where
deriving DecidableEq, Repr

inductive Refusal where
  /-- Raised by `exec` alone, for a command that has no meaning yet; no arm of this model uses it.  Safe. -/
  | notModelled (mnemonic : String)
deriving DecidableEq, Repr

/-! ### Reset values -/

/-- R184; `lastRead` log 5. -/
def HostUnit.reset : HostUnit :=
  { cmdarg := 0, cmdres := .ok, slotsel := 0, slptr := 0, stasel := 0, fsel := 0, ienab := 0, lastRead := none }

/-- R165: the column "Device reset". -/
def TimingConfig.reset : TimingConfig :=
  { rate := 1, rwin := 50, burst := 4, retry := 2, busylim := 3, backoff := 10, round := 20, slowdiv := 8,
    probediv := 16, tmarkl := 0, tmarkh := 0 }

/-- R152. -/
def LinkUnit.reset : LinkUnit :=
  { state := .stopped, lineErrors := 0, config := .reset, link := false, wrej := false }

/-- R94. -/
def Scheduler.reset : Scheduler :=
  { roundList := [], roundTimer := .stopped, roundCounter := 0, burstCounter := 0, discovery := [], rlate := false }

/-- R1, R17: looking for a start bit, the turnaround count running from 0 (log 4, log 24). -/
def Receiver.reset : Receiver :=
  { edge := none, assembling := none, heldLow := false, lastEnd := 0, idleSince := some 0, gapPassed := false }

/-- R40: the column "Device reset". -/
def Station.reset : Station :=
  { state := .unused, cls := .fast, mode := .level, faultCounter := 0, missCount := 0, nextToggle := false,
    resync := false, disablePending := false, latch := false, attnCode := 0, ackPending := false,
    stationType := 0, lastStatus := 0 }

/-- R66: the column "Device reset". -/
def Slot.reset : Slot :=
  { state := .free, station := 0, kind := .fetch, code := 0, priority := 0, ordered := false, reqLen := 0,
    reqBytes := Vector.replicate 32 0, outcome := .none, reason := 0, replyKind := .none, replyLen := 0,
    replyBytes := Vector.replicate 32 0, attempts := 0, busyCount := 0, failCount := 0, finishTime := 0,
    backoff := none }

/-- R130: the column "Device reset". -/
def FilterEntry.reset : FilterEntry :=
  { active := false, action := .accept, kinds := 0, stationLow := 0, stationHigh := 30, codeLow := 0,
    codeHigh := 255 }

/-- R143. -/
def NotificationUnit.reset : NotificationUnit :=
  { filters := Vector.replicate 8 .reset, fdefault := .accept, queue := [], nqovr := 0, ovr := false, nthresh := 1 }

/-- R144, R151. -/
def TimeBase.reset : TimeBase :=
  { counter := 0, snapshot := 0, interval := none, pendingMark := false }

/-- The part right after device reset: every block at its reset values, /RESET released, CLK running and RXD high
(log 4). -/
def State.reset : State :=
  { host := .reset, link := .reset, sched := .reset, engine := none, receiver := .reset,
    stations := Vector.replicate 31 .reset, slots := Vector.replicate 8 .reset, service := [],
    notes := .reset, time := .reset, clock := 0, inReset := false, clkRunning := true, pending := [] }

end Sys2Proof.Machine
end

