-- ==== Sys2Proof/Machine/Params.lean ====
section
/-! DEFINITION. The numbers of the manual: the times of chapter 1 and chapter 2 in microseconds, the thresholds of
the health arithmetic, and the limits of the counts. -/

namespace Sys2Proof.Machine

/-- R3: the bit time selected by RATE, in microseconds. -/
def TimingConfig.bitTime (c : TimingConfig) : Nat :=
  if c.rate = 0 then 16 else if c.rate = 1 then 8 else if c.rate = 2 then 4 else 2

/-- R2: a byte takes 10 bit times. -/
def byteTimeOf (bit : Nat) : Nat := 10 * bit

def TimingConfig.byteTime (c : TimingConfig) : Nat := byteTimeOf c.bitTime

/-- R15: the response window, RWIN × 10 µs. -/
def TimingConfig.window (c : TimingConfig) : Nat := 10 * c.rwin.toNat

/-- R82: the backoff, BACKOFF × 100 µs. -/
def TimingConfig.backoffTime (c : TimingConfig) : Nat := 100 * c.backoff.toNat

/-- R106: the round interval, ROUND ms. -/
def TimingConfig.roundTime (c : TimingConfig) : Nat := 1000 * c.round.toNat

/-- R106: the timer of a round whose build is empty when ROUND is 0, 1 ms. -/
def emptyRoundTime : Nat := 1000

/-- R151, R183: TMARK is the pair TMARKH, TMARKL. -/
def TimingConfig.tmark (c : TimingConfig) : BitVec 16 := c.tmarkh ++ c.tmarkl

/-- R147: the time-mark interval, TMARK ms. -/
def TimingConfig.markPeriod (c : TimingConfig) : Nat := 1000 * c.tmark.toNat

/-- R17: the turnaround gap, in byte times. -/
def turnaroundBytes : Nat := 3

/-- R16: the gap that cuts a frame off, in byte times. -/
def gapLimitBytes : Nat := 2

/-- R33: the quiet count that ends the quiet wait, in byte times. -/
def quietBytes : Nat := 2

/-- R34: the quiet-wait deadline after the reply start, in byte times. -/
def deadlineAfterStartBytes : Nat := 40

/-- R34: the quiet-wait deadline after the instant the reply was found bad, in byte times. -/
def deadlineAfterBadBytes : Nat := 4

/-- R44: what an unsound outcome adds to the fault counter. -/
def unsoundStep : Nat := 4

/-- R48: the fault counter at which an ONLINE station becomes DEGRADED. -/
def degradedAt : Nat := 24

/-- R48: the fault counter below which a DEGRADED station becomes ONLINE. -/
def healthyBelow : Nat := 16

/-- R49: the fault counter at which a DEGRADED station becomes ISOLATED. -/
def isolatedAt : Nat := 48

/-- R51: the fault counter of a restored station. -/
def restoredCounter : Nat := 32

/-- R50: the miss count at which a station is lost. -/
def lostAt : Nat := 4

/-- R159, R161: the line-error count that takes the link out of service. -/
def faultedAt : Nat := 8

/-- R5: the largest payload. -/
def maxPayload : Nat := 32

end Sys2Proof.Machine
end

