-- ==== Sys2Proof/Machine/Ops.lean ====
section
/-! DEFINITION. The named operations over the state: one update per block, the tables' entries, the instants and
their values of the time counter, the check of R8, and the guards of /RESET (R184) and CLK (R185). -/

namespace Sys2Proof.Machine

/-- The step of a meaning that always completes. -/
abbrev Result := Host.Outcome State Fault Refusal

/-! ### One update per block -/

def State.setHost (s : State) (h : HostUnit) : State := { s with host := h }
def State.setLink (s : State) (l : LinkUnit) : State := { s with link := l }
def State.setSched (s : State) (c : Scheduler) : State := { s with sched := c }
def State.setEngine (s : State) (e : Option Exchange) : State := { s with engine := e }
def State.setReceiver (s : State) (r : Receiver) : State := { s with receiver := r }
def State.setStations (s : State) (v : Vector Station 31) : State := { s with stations := v }
def State.setSlots (s : State) (v : Vector Slot 8) : State := { s with slots := v }
def State.setService (s : State) (l : List SlotId) : State := { s with service := l }
def State.setNotes (s : State) (u : NotificationUnit) : State := { s with notes := u }
def State.setTime (s : State) (t : TimeBase) : State := { s with time := t }

/-! ### Entries of the tables -/

/-- `f` applied to every entry. -/
def mapVec {α β : Type} {n : Nat} (f : α → β) (v : Vector α n) : Vector β n := Vector.ofFn (fun i => f v[i])

/-- The station table's entry (R40). -/
def State.station (s : State) (n : StationId) : Station := s.stations[n]

def State.setStation (s : State) (n : StationId) (st : Station) : State := s.setStations (s.stations.set n st)

/-- The record of a slot (R66). -/
def State.slot (s : State) (i : SlotId) : Slot := s.slots[i]

def State.setSlot (s : State) (i : SlotId) (sl : Slot) : State := s.setSlots (s.slots.set i sl)

/-- The station numbers in ascending address order (R40). -/
def allStations : List StationId := List.finRange 31

/-- The address of a station, 1-31 (R40). -/
def address (n : StationId) : BitVec 5 := BitVec.ofNat 5 (n.val + 1)

/-- The station an address names; address 0 names none (R7). -/
def stationAt? (a : BitVec 5) : Option StationId :=
  if h : 1 ≤ a.toNat then some ⟨a.toNat - 1, by have := a.isLt; omega⟩ else none

/-! ### Instants -/

/-- R3: the bit time in force. -/
def State.bitTime (s : State) : Nat := s.link.config.bitTime

def State.byteTime (s : State) : Nat := s.link.config.byteTime

/-- R36, R146: the value of the time counter at the instant `t`. -/
def State.counterAt (s : State) (t : Nat) : Stamp :=
  s.time.counter + BitVec.ofNat 32 t - BitVec.ofNat 32 s.clock

/-! ### The check (R8) -/

/-- One bit of the calculation: generator x^16 + x^12 + x^5 + 1. -/
def crcBit (crc : BitVec 16) : BitVec 16 := if crc.msb then (crc <<< 1) ^^^ 0x1021 else crc <<< 1

/-- `n` bits of the calculation. -/
def crcBits : Nat → BitVec 16 → BitVec 16
  | 0, crc => crc
  | n + 1, crc => crcBits n (crcBit crc)

/-- R8: each byte enters the calculation most significant bit first. -/
def crcByte (crc : BitVec 16) (b : Byte) : BitVec 16 := crcBits 8 (crc ^^^ (b ++ 0#8))

/-- R8: the check over a list of byte values, from the initial value 0xFFFF. -/
def crc16 (bytes : List Byte) : BitVec 16 := bytes.foldl crcByte 0xFFFF

/-- R8: the check in the order it is sent, high byte first. -/
def checkBytes (crc : BitVec 16) : List Byte := [crc.extractLsb' 8 8, crc.extractLsb' 0 8]

/-! ### Bytes of multi-byte values -/

/-- Byte `k` of a 32-bit value, byte 0 the least significant. -/
def stampByte (t : Stamp) (k : Nat) : Byte := t.extractLsb' (8 * k) 8

/-- R10: four bytes, most significant first. -/
def stampBigEndian (t : Stamp) : List Byte := [stampByte t 3, stampByte t 2, stampByte t 1, stampByte t 0]

/-- Byte `i` of a list of received bytes. -/
def byteAt (bytes : List Byte) (i : Nat) : Byte := bytes.getD i 0

/-! ### Guards -/

/-- R168, R184: while /RESET is low no host access is taken. -/
def hostAccess (f : State → State) (s : State) : State := if s.inReset then s else f s

/-- R184, R185: nothing of the line, of the timers or of the scheduler happens while /RESET is low or CLK is
stopped (log 16). -/
def linkEvent (f : State → State) (s : State) : State := if s.inReset || !s.clkRunning then s else f s

/-- Leave `r` in CMDRES (R171). -/
def State.setCmdres (s : State) (r : ResultCode) : State := s.setHost { s.host with cmdres := r }

/-- R166: a refused or ignored write sets WREJ. -/
def State.rejectWrite (s : State) : State := s.setLink { s.link with wrej := true }

/-! ### Predicates on states of the blocks -/

/-- R67: the slot is held in the service list. -/
def Slot.inService (sl : Slot) : Bool := sl.state = .queued || sl.state = .waiting || sl.state = .active

/-- R87, R88: the slots a mass failure can fail. -/
def Slot.waitingForService (sl : Slot) : Bool := sl.state = .queued || sl.state = .waiting

/-- R89: the slot is finished. -/
def Slot.finished (sl : Slot) : Bool := sl.state = .done || sl.state = .failed

/-- R68: the host owns the slot. -/
def Slot.hostOwned (sl : Slot) : Bool := sl.state = .free || sl.state = .loaded

/-- R41, R72: the station is ONLINE or DEGRADED. -/
def Station.served (st : Station) : Bool := st.state = .online || st.state = .degraded

/-- The station of an exchange; a time mark has none (R23). -/
def Job.station? : Job → Option StationId
  | .probe _ n => some n
  | .poll n => some n
  | .request _ _ n _ => some n
  | .attnAck n => some n
  | .timeMark => none

/-- R59: an exchange with station `n` is in flight. -/
def State.inFlightWith (s : State) (n : StationId) : Bool :=
  match s.engine with
  | some e => e.job.station? = some n
  | none => false

end Sys2Proof.Machine
end

