-- ==== Sys2Proof/Machine/Operands.lean ====
section
/-! DEFINITION. What the bytes of the register window stand for: the ranges of writes and the encodings of
sections 10.2 to 10.8. -/

namespace Sys2Proof.Machine

/-! ### Numbers of stations, slots and filter entries -/

/-- R171, R180: a station number is 1-31. -/
def stationOfByte? (v : Byte) : Option StationId :=
  if h : 1 ≤ v.toNat ∧ v.toNat ≤ 31 then some ⟨v.toNat - 1, by omega⟩ else none

/-- R171, R177: a slot number is 0-7. -/
def slotOfByte? (v : Byte) : Option SlotId := if h : v.toNat < 8 then some ⟨v.toNat, h⟩ else none

/-- R182: a filter entry's number is 0-7. -/
def filterOfByte? (v : Byte) : Option FilterId := if h : v.toNat < 8 then some ⟨v.toNat, h⟩ else none

/-- R179: a value of SLPTR is 0-31. -/
def pointerOfByte? (v : Byte) : Option (Fin 32) := if h : v.toNat < 32 then some ⟨v.toNat, h⟩ else none

/-- The byte that shows a station's number (R180, R181). -/
def stationByte (n : StationId) : Byte := BitVec.ofNat 8 (n.val + 1)

/-! ### Codes shown to the host -/

/-- R173. -/
def ResultCode.code : ResultCode → Byte
  | .ok => 0x00
  | .deferred => 0x01
  | .wrongState => 0x02
  | .badArg => 0x03
  | .notLoaded => 0x04
  | .badRequest => 0x05
  | .stationDown => 0x06
  | .tooLate => 0x07
  | .empty => 0x08

/-- R174. -/
def LinkState.code : LinkState → BitVec 3
  | .stopped => 0
  | .starting => 1
  | .running => 2
  | .holding => 3
  | .held => 4
  | .stopping => 5
  | .faulted => 6

/-- R178. -/
def SlotState.code : SlotState → BitVec 3
  | .free => 0
  | .loaded => 1
  | .queued => 2
  | .waiting => 3
  | .active => 4
  | .done => 5
  | .failed => 6

/-- R178. -/
def SlotOutcome.code : SlotOutcome → BitVec 4
  | .none => 0
  | .ok => 1
  | .refused => 2
  | .noReply => 3
  | .badReply => 4
  | .busyLimit => 5
  | .stationLost => 6
  | .stationIsolated => 7
  | .stationDisabled => 8
  | .stopped => 9

/-- R178. -/
def SlotKind.code : SlotKind → Byte
  | .fetch => 0
  | .store => 1
  | .command => 2

/-- R178: 3-255 are out of range. -/
def SlotKind.ofByte? (v : Byte) : Option SlotKind :=
  if v = 0 then some .fetch else if v = 1 then some .store else if v = 2 then some .command else none

/-- R178. -/
def SlotReplyKind.code : SlotReplyKind → BitVec 2
  | .none => 0
  | .data => 1
  | .ack => 2

/-- R180. -/
def StationState.code : StationState → Byte
  | .unused => 0
  | .absent => 1
  | .online => 2
  | .degraded => 3
  | .isolated => 4

/-- R180. -/
def StationClass.code : StationClass → BitVec 2
  | .fast => 0
  | .slow => 1
  | .off => 2

/-- R180. -/
def AttentionMode.bit : AttentionMode → BitVec 1
  | .level => 0
  | .edge => 1

/-- R181: codes 1-7; 0 stands for an empty queue. -/
def NoteKind.code : NoteKind → Byte
  | .attn => 1
  | .found => 2
  | .lost => 3
  | .degraded => 4
  | .healthy => 5
  | .isolated => 6
  | .restored => 7

/-- R182: the bit of a kind in FKINDS. -/
def NoteKind.bit : NoteKind → Nat
  | .attn => 0
  | .found => 1
  | .lost => 2
  | .degraded => 3
  | .healthy => 4
  | .isolated => 5
  | .restored => 6

/-- R182: 0 ACCEPT, 1 DROP. -/
def FilterAction.bit : FilterAction → BitVec 1
  | .accept => 0
  | .drop => 1

def FilterAction.ofBool : Bool → FilterAction
  | false => .accept
  | true => .drop

/-! ### STCFG -/

/-- R180: class and mode of a byte written to STCFG, none when the write is refused (class 3, or any of bits
7-3 set). -/
def stcfg? (v : Byte) : Option (StationClass × AttentionMode) :=
  let mode := if v.getLsbD 2 then AttentionMode.edge else AttentionMode.level
  if v.extractLsb' 3 5 ≠ 0#5 then none
  else if v.extractLsb' 0 2 = 0#2 then some (.fast, mode)
  else if v.extractLsb' 0 2 = 1#2 then some (.slow, mode)
  else if v.extractLsb' 0 2 = 2#2 then some (.off, mode)
  else none

/-! ### Timing configuration group -/

/-- R165: the least value of a parameter. -/
def configLeast : ConfigRegister → Nat
  | .rwin => 5
  | .burst | .backoff | .slowdiv | .probediv => 1
  | .rate | .retry | .busylim | .round | .tmarkl | .tmarkh => 0

/-- R165: the greatest value of a parameter. -/
def configGreatest : ConfigRegister → Nat
  | .rate => 3
  | .rwin => 250
  | .burst => 8
  | .retry => 7
  | .busylim => 15
  | .slowdiv | .probediv => 16
  | .backoff | .round | .tmarkl | .tmarkh => 255

/-- R165: the value lies in the parameter's range. -/
def configInRange (r : ConfigRegister) (v : Byte) : Bool :=
  configLeast r ≤ v.toNat && v.toNat ≤ configGreatest r

/-- The stored value of a register of the group. -/
def TimingConfig.get (c : TimingConfig) : ConfigRegister → Byte
  | .rate => c.rate
  | .rwin => c.rwin
  | .burst => c.burst
  | .retry => c.retry
  | .busylim => c.busylim
  | .backoff => c.backoff
  | .round => c.round
  | .slowdiv => c.slowdiv
  | .probediv => c.probediv
  | .tmarkl => c.tmarkl
  | .tmarkh => c.tmarkh

def TimingConfig.set (c : TimingConfig) (r : ConfigRegister) (v : Byte) : TimingConfig :=
  match r with
  | .rate => { c with rate := v }
  | .rwin => { c with rwin := v }
  | .burst => { c with burst := v }
  | .retry => { c with retry := v }
  | .busylim => { c with busylim := v }
  | .backoff => { c with backoff := v }
  | .round => { c with round := v }
  | .slowdiv => { c with slowdiv := v }
  | .probediv => { c with probediv := v }
  | .tmarkl => { c with tmarkl := v }
  | .tmarkh => { c with tmarkh := v }

/-! ### Request fields -/

/-- R68, R178: the slot with the field written, none when the value is outside the field's range. -/
def Slot.writeField? (sl : Slot) (f : SlotField) (v : Byte) : Option Slot :=
  match f with
  | .station => if v.toNat < 32 then some { sl with station := v.extractLsb' 0 5 } else none
  | .kind => (SlotKind.ofByte? v).map (fun k => { sl with kind := k })
  | .priority => some { sl with priority := v.extractLsb' 0 4, ordered := v.getLsbD 7 }
  | .code => some { sl with code := v }
  | .length => if v.toNat ≤ maxPayload then some { sl with reqLen := v.toNat } else none

/-- R72, check 4: the request lengths that suit a kind (R9). -/
def SlotKind.lengthFits (k : SlotKind) (len : Nat) : Bool :=
  match k with
  | .fetch => len ≤ 4
  | .store => 1 ≤ len && len ≤ 32
  | .command => len ≤ 32

/-! ### Filter fields -/

/-- R133, R182: the entry with the field written, none when the value is out of range. -/
def FilterEntry.writeField? (e : FilterEntry) (f : FilterField) (v : Byte) : Option FilterEntry :=
  match f with
  | .factv =>
    if v.extractLsb' 2 6 = 0#6 then
      some { e with active := v.getLsbD 0, action := FilterAction.ofBool (v.getLsbD 1) }
    else none
  | .fkinds => if v.getLsbD 7 then none else some { e with kinds := v.extractLsb' 0 7 }
  | .fslo => (stationOfByte? v).map (fun n => { e with stationLow := n })
  | .fshi => (stationOfByte? v).map (fun n => { e with stationHigh := n })
  | .fclo => some { e with codeLow := v }
  | .fchi => some { e with codeHigh := v }

/-- R182: bits 7-1 set refuse the write. -/
def fdefault? (v : Byte) : Option FilterAction :=
  if v.extractLsb' 1 7 = 0#7 then some (FilterAction.ofBool (v.getLsbD 0)) else none

/-- R140: NTHRESH takes 1-16. -/
def nthresh? (v : Byte) : Option Byte := if 1 ≤ v.toNat ∧ v.toNat ≤ 16 then some v else none

/-- R176: bits 7-4 set refuse the write. -/
def ienab? (v : Byte) : Option (BitVec 4) := if v.extractLsb' 4 4 = 0#4 then some (v.extractLsb' 0 4) else none

/-! ### Addresses of section 10.2 -/

/-- The request fields at addresses 0x22 to 0x26. -/
def slotFieldAt? (n : Nat) : Option SlotField :=
  [(0x22, SlotField.station), (0x23, .kind), (0x24, .priority), (0x25, .code), (0x26, .length)].lookup n

/-- The timing configuration group at addresses 0x06 to 0x10. -/
def configRegisterAt? (n : Nat) : Option ConfigRegister :=
  [(0x06, ConfigRegister.rate), (0x07, .rwin), (0x08, .burst), (0x09, .retry), (0x0A, .busylim), (0x0B, .backoff),
    (0x0C, .round), (0x0D, .slowdiv), (0x0E, .probediv), (0x0F, .tmarkl), (0x10, .tmarkh)].lookup n

/-- The filter window at addresses 0x3A to 0x3F. -/
def filterFieldAt? (n : Nat) : Option FilterField :=
  [(0x3A, FilterField.factv), (0x3B, .fkinds), (0x3C, .fslo), (0x3D, .fshi), (0x3E, .fclo), (0x3F, .fchi)].lookup n

end Sys2Proof.Machine
end

