-- ==== Sys2Proof/Machine/Flags.lean ====
section
/-! DEFINITION. The flags the host sees: SLOTDONE, the causes of ISTAT, LINKSTAT and /INT, each worked out from the
state its rule names (log 19), and the clears of the sticky flags. -/

namespace Sys2Proof.Machine

/-- R89: bit `s` is set while slot `s` is DONE or FAILED. -/
def State.slotdoneBit (s : State) (i : SlotId) : Bool := (s.slot i).finished

/-- R89: SLOTDONE as a byte. -/
def State.slotdone (s : State) : Byte :=
  BitVec.ofBool (s.slotdoneBit 7) ++ BitVec.ofBool (s.slotdoneBit 6) ++ BitVec.ofBool (s.slotdoneBit 5) ++
    BitVec.ofBool (s.slotdoneBit 4) ++ BitVec.ofBool (s.slotdoneBit 3) ++ BitVec.ofBool (s.slotdoneBit 2) ++
    BitVec.ofBool (s.slotdoneBit 1) ++ BitVec.ofBool (s.slotdoneBit 0)

/-- R175: SLOT is present while SLOTDONE is not 0. -/
def State.slotCause (s : State) : Bool := s.slotdone ≠ 0

/-- R140: NOTE is present while the queue holds at least NTHRESH entries. -/
def State.noteCause (s : State) : Bool := s.notes.nthresh.toNat ≤ s.notes.queue.length

/-- R175: bit 0 SLOT, bit 1 NOTE, bit 2 OVR, bit 3 LINK. -/
def State.causes (s : State) : BitVec 4 :=
  BitVec.ofBool s.link.link ++ BitVec.ofBool s.notes.ovr ++ BitVec.ofBool s.noteCause ++ BitVec.ofBool s.slotCause

/-- R175: ISTAT; bits 7-4 read 0. -/
def State.istat (s : State) : Byte := 0#4 ++ s.causes

/-- R174: bits 2-0 link state, bit 6 RLATE, bit 7 WREJ; bits 5-3 read 0. -/
def State.linkstat (s : State) : Byte :=
  BitVec.ofBool s.link.wrej ++ BitVec.ofBool s.sched.rlate ++ 0#3 ++ s.link.state.code

/-- R176: /INT is asserted exactly when some cause present in ISTAT is enabled in IENAB. -/
def State.intAsserted (s : State) : Bool := s.causes &&& s.host.ienab ≠ 0

/-- R164: an entry sets LINK. -/
def State.setLinkFlag (s : State) : State := s.setLink { s.link with link := true }

/-- R174: a write to LINKSTAT clears RLATE when bit 6 is 1 and WREJ when bit 7 is 1; it is never refused. -/
def writeLinkstat (v : Byte) (s : State) : State :=
  (s.setSched { s.sched with rlate := s.sched.rlate && !v.getLsbD 6 }).setLink
    { s.link with wrej := s.link.wrej && !v.getLsbD 7 }

/-- R136, R175: a write to ISTAT clears OVR and NQOVR when bit 2 is 1 and LINK when bit 3 is 1. -/
def writeIstat (v : Byte) (s : State) : State :=
  (s.setNotes
    { s.notes with
      ovr := s.notes.ovr && !v.getLsbD 2
      nqovr := if v.getLsbD 2 then 0 else s.notes.nqovr }).setLink
    { s.link with link := s.link.link && !v.getLsbD 3 }

end Sys2Proof.Machine
end

