-- ==== Sys2Proof/Machine/Frame.lean ====
section
/-! DEFINITION. Frames of the link (sections 1.2 to 1.4): how the part fills a command frame, and how it judges the
bytes of a reply. -/

namespace Sys2Proof.Machine

/-- R5: the lead byte. -/
def leadByte : Byte := 0xC5

/-- R9: the frame kind of a request. -/
def SlotKind.frameKind : SlotKind → BitVec 3
  | .fetch => 2
  | .store => 3
  | .command => 4

/-- R9: the frame kind of a command frame. -/
def Job.frameKind : Job → BitVec 3
  | .probe _ _ => 0
  | .poll _ => 1
  | .request _ k _ _ => k.frameKind
  | .attnAck _ => 5
  | .timeMark => 6

/-- R7, R9: the address of a command frame; TIMEMARK is the broadcast. -/
def Job.address (j : Job) : BitVec 5 :=
  match j.station? with
  | some n => Machine.address n
  | none => 0

/-- R9: the toggle of a command frame; only the request kinds carry one of meaning. -/
def Job.toggle : Job → Bool
  | .request _ _ _ t => t
  | .probe _ _ | .poll _ | .attnAck _ | .timeMark => false

/-- R5: byte 1, the address and the kind. -/
def addressByte (a : BitVec 5) (k : BitVec 3) : Byte := a ++ k

/-- R5: byte 2 of a command frame, whose attention flag is 0 (R9). -/
def controlByte (toggle : Bool) (len : Nat) : Byte := BitVec.ofBool toggle ++ 0#1 ++ BitVec.ofNat 6 len

/-- R5, R8: the frame of a head and a payload; the check covers byte 1 through the last payload byte. -/
def frameOf (a : BitVec 5) (k : BitVec 3) (toggle : Bool) (code : Byte) (payload : List Byte) : List Byte :=
  let body := addressByte a k :: controlByte toggle payload.length :: code :: payload
  leadByte :: (body ++ checkBytes (crc16 body))

/-- R10: the code byte of a command frame. -/
def State.frameCode (s : State) : Job → Byte
  | .request i _ _ _ => (s.slot i).code
  | .probe _ _ | .poll _ | .attnAck _ | .timeMark => 0

/-- R10: the payload of a command frame. -/
def State.framePayload (s : State) : Job → List Byte
  | .request i _ _ _ => (s.slot i).reqBytes.toList.take (s.slot i).reqLen
  | .timeMark => stampBigEndian s.time.counter
  | .probe _ _ | .poll _ | .attnAck _ => []

/-- R10, R25: the command frame, built from the state at the moment the lead byte starts. -/
def State.buildFrame (s : State) (j : Job) : List Byte :=
  frameOf j.address j.frameKind j.toggle (s.frameCode j) (s.framePayload j)

/-! ### Replies -/

/-- R12: the reply kinds; kinds 6 and 7 are invalid. -/
def ReplyKind.ofBits? (k : BitVec 3) : Option ReplyKind :=
  [(0, ReplyKind.present), (1, .status), (2, .data), (3, .ack), (4, .busy), (5, .refuse)].lookup k.toNat

/-- R13: the legal replies to a request frame. -/
def SlotKind.legalReply (k : SlotKind) (r : ReplyKind) : Bool :=
  match k, r with
  | _, .busy | _, .refuse => true
  | .fetch, .data | .store, .ack | .command, .ack | .command, .data => true
  | _, _ => false

/-- R13: the legal replies to a command frame. -/
def Job.legalReply (j : Job) (r : ReplyKind) : Bool :=
  match j with
  | .probe _ _ => r = .present
  | .poll _ => r = .status
  | .request _ k _ _ => k.legalReply r
  | .attnAck _ => r = .ack
  | .timeMark => false

/-- R12, R31: the payload lengths a reply kind takes. -/
def ReplyKind.lengthFits (k : ReplyKind) (len : Nat) : Bool :=
  match k with
  | .present | .status | .refuse => len = 1
  | .ack | .busy => len = 0
  | .data => len ≤ maxPayload

/-- R32, R36: what a valid reply carries into the report. -/
structure Reply where
  kind : ReplyKind
  attention : Bool
  code : Byte
  payload : List Byte
deriving DecidableEq, Repr

/-- R31, R32: what the bytes received so far amount to. -/
inductive Judgement where
  | incomplete
  | bad
  | valid (r : Reply)
deriving DecidableEq, Repr

/-- R5: the payload length in byte 2. -/
def replyLength (bytes : List Byte) : Nat := ((byteAt bytes 2).extractLsb' 0 6).toNat

/-- R5: the kind in byte 1. -/
def replyKind? (bytes : List Byte) : Option ReplyKind := ReplyKind.ofBits? ((byteAt bytes 1).extractLsb' 0 3)

/-- R31: the address check, the address is the target of the exchange. -/
def Job.addressFits (j : Job) (bytes : List Byte) : Bool := (byteAt bytes 1).extractLsb' 3 5 = j.address

/-- R31: the kind check. -/
def Job.kindFits (j : Job) (bytes : List Byte) : Bool :=
  match replyKind? bytes with
  | some k => j.legalReply k
  | none => false

/-- R31: the length checks. -/
def lengthFits (bytes : List Byte) : Bool :=
  replyLength bytes ≤ maxPayload &&
    match replyKind? bytes with
    | some k => k.lengthFits (replyLength bytes)
    | none => false

/-- R31: the toggle echo, in a request exchange only. -/
def Job.toggleFits (j : Job) (bytes : List Byte) : Bool :=
  match j with
  | .request _ _ _ t => (byteAt bytes 2).getLsbD 7 = t
  | .probe _ _ | .poll _ | .attnAck _ | .timeMark => true

/-- R8: the check is valid when it equals the check over bytes 1 to 3+len. -/
def checkFits (bytes : List Byte) : Bool :=
  let len := replyLength bytes
  checkBytes (crc16 ((bytes.drop 1).take (3 + len))) = [byteAt bytes (4 + len), byteAt bytes (5 + len)]

/-- The fields of a complete reply (R36). -/
def replyOf (k : ReplyKind) (bytes : List Byte) : Reply :=
  { kind := k, attention := (byteAt bytes 2).getLsbD 6, code := byteAt bytes 3,
    payload := (bytes.drop 4).take (replyLength bytes) }

/-- R31, R32: the judgement at the end of the byte that was received last. -/
def judge (j : Job) (bytes : List Byte) : Judgement :=
  if bytes.length = 1 then
    if byteAt bytes 0 = leadByte then .incomplete else .bad
  else if bytes.length = 2 then
    if j.addressFits bytes && j.kindFits bytes then .incomplete else .bad
  else if bytes.length = 3 then
    if lengthFits bytes && j.toggleFits bytes then .incomplete else .bad
  else if bytes.length = 6 + replyLength bytes then
    if checkFits bytes then
      match replyKind? bytes with
      | some k => .valid (replyOf k bytes)
      | none => .bad
    else .bad
  else .incomplete

/-- R32: the outcome of a valid reply. -/
def ReplyKind.outcome : ReplyKind → ExchangeOutcome
  | .present | .status | .data | .ack => .good
  | .busy => .busy
  | .refuse => .refused

end Sys2Proof.Machine
end

