-- ==== Sys2Proof/Machine/Notify.lean ====
section
/-! DEFINITION. The notification unit (chapter 7): the filter, the queue, and the report whose notifications it
takes. -/

namespace Sys2Proof.Machine

/-- R36: the report of an exchange.  `decidedAt` is the instant its outcome was decided and `endTime` the value of
the time counter then. -/
structure Report where
  job : Job
  frameWhole : Bool
  outcome : ExchangeOutcome
  reply : Option Reply
  decidedAt : Nat
  endTime : Stamp
deriving DecidableEq, Repr

/-- R131: an entry matches an offered notification. -/
def FilterEntry.hits (e : FilterEntry) (n : Notification) : Bool :=
  e.active && e.kinds.getLsbD n.kind.bit && (e.stationLow ≤ n.station && n.station ≤ e.stationHigh) &&
    (e.codeLow ≤ n.code && n.code ≤ e.codeHigh)

/-- R132: the first entry that matches decides, and FDEFAULT where none does. -/
def NotificationUnit.verdict (u : NotificationUnit) (n : Notification) : FilterAction :=
  match u.filters.toList.find? (fun e => e.hits n) with
  | some e => e.action
  | none => u.fdefault

/-- R135, R136: an accepted notification joins the tail, or is an overrun, counted up to 255. -/
def NotificationUnit.join (u : NotificationUnit) (n : Notification) : NotificationUnit :=
  if u.queue.length < Config.queueCapacity then { u with queue := u.queue ++ [n] }
  else { u with nqovr := if u.nqovr = 255 then 255 else u.nqovr + 1, ovr := true }

/-- R132: an offered notification is accepted or dropped; a dropped one leaves no trace. -/
def NotificationUnit.offer (u : NotificationUnit) (n : Notification) : NotificationUnit :=
  match u.verdict n with
  | .accept => u.join n
  | .drop => u

/-- R129: a notification is offered to the unit. -/
def State.offer (s : State) (n : Notification) : State := s.setNotes (s.notes.offer n)

end Sys2Proof.Machine
end

