-- ==== Sys2Proof/Machine/Stations.lean ====
section
/-! DEFINITION. The station manager (chapter 3): the health arithmetic, the transitions, the toggle and the resync
flag, and what ENABLE, DISABLE and START do to an entry. -/

namespace Sys2Proof.Machine

/-- R47: the transitions, each with its notification. -/
inductive Transition where
  | found | lost | degraded | healthy | isolated | restored
deriving DecidableEq, Repr

/-- R47: the notification kind of a transition. -/
def Transition.noteKind : Transition → NoteKind
  | .found => .found
  | .lost => .lost
  | .degraded => .degraded
  | .healthy => .healthy
  | .isolated => .isolated
  | .restored => .restored

/-- R125: the latch, the code and ack-pending are cleared. -/
def Station.clearAttention (st : Station) : Station :=
  { st with latch := false, attnCode := 0, ackPending := false }

/-- The type byte of a PRESENT reply and the status byte of a STATUS reply (R12, R32). -/
def Reply.firstByte (r : Reply) : Byte := byteAt r.payload 0

/-- R55: what a GOOD probe records: next toggle 0, resync clear, the station type. -/
def Station.probed (st : Station) (r : Reply) : Station :=
  { st with nextToggle := false, resync := false, stationType := r.firstByte }

/-- R43, R54, R55: the record a sound outcome leaves besides the arithmetic. -/
def Station.recorded (st : Station) (j : Job) (o : ExchangeOutcome) (reply : Option Reply) : Station :=
  match j, o, reply with
  | .poll _, .good, some r => { st with lastStatus := r.firstByte }
  | .probe _ _, .good, some r => st.probed r
  | .request _ _ _ _, .good, _ => { st with nextToggle := !st.nextToggle }
  | .request _ _ _ _, .refused, _ => { st with nextToggle := !st.nextToggle }
  | _, _, _ => st

/-- R43: a sound outcome lowers the fault counter by 1, down to 0, and clears the miss count. -/
def Station.sound (st : Station) : Station :=
  { st with faultCounter := st.faultCounter - 1, missCount := 0 }

/-- R44: the miss count after a MISS. -/
def Station.missed (st : Station) : Station := { st with missCount := st.missCount + 1 }

/-- R44: the miss count after a BADREPLY. -/
def Station.answeredBadly (st : Station) : Station := { st with missCount := 0 }

/-- R44: an unsound outcome raises the fault counter by 4. -/
def Station.raised (st : Station) : Station := { st with faultCounter := st.faultCounter + unsoundStep }

/-- R50, with the hand-off to the attention unit (R53, R125). -/
def Station.lose (st : Station) : Station :=
  { st with state := .absent, faultCounter := 0, missCount := 0, nextToggle := false, resync := false }.clearAttention

/-- R49, with the hand-off to the attention unit (R53, R125). -/
def Station.isolate (st : Station) : Station := { st with state := .isolated }.clearAttention

/-- R52. -/
def Station.find (st : Station) (r : Reply) : Station :=
  { st.probed r with state := .online, faultCounter := 0, missCount := 0 }

/-- R51, the row GOOD. -/
def Station.restore (st : Station) (r : Reply) : Station :=
  { st.probed r with state := .degraded, faultCounter := restoredCounter, missCount := 0 }

/-- R48, R49: the thresholds, tested once after the arithmetic on a served station.  Only an unsound outcome
isolates (R49), and by R46 only an unsound one degrades. -/
def Station.thresholds (st : Station) (unsound : Bool) : Station × Option Transition :=
  match st.state with
  | .online => if degradedAt ≤ st.faultCounter then ({ st with state := .degraded }, some .degraded) else (st, none)
  | .degraded =>
    if unsound && isolatedAt ≤ st.faultCounter then (st.isolate, some .isolated)
    else if st.faultCounter < healthyBelow then ({ st with state := .online }, some .healthy)
    else (st, none)
  | .unused | .absent | .isolated => (st, none)

/-- R43, R44, R48, R49, R50: the report of a served station (ONLINE or DEGRADED). -/
def Station.servedReport (st : Station) (r : Report) : Station × Option Transition :=
  match r.outcome with
  | .good | .busy | .refused => (st.sound.recorded r.job r.outcome r.reply).thresholds false
  | .miss =>
    if lostAt ≤ st.missCount + 1 then (st.lose, some .lost) else st.raised.missed.thresholds true
  | .badReply => st.raised.answeredBadly.thresholds true
  | .lineError | .sent => (st, none)

/-- R51: the report of an ISOLATED station. -/
def Station.isolatedReport (st : Station) (r : Report) : Station × Option Transition :=
  match r.outcome, r.job, r.reply with
  | .good, .probe _ _, some p => (st.restore p, some .restored)
  | .miss, _, _ => if lostAt ≤ st.missCount + 1 then (st.lose, some .lost) else (st.missed, none)
  | .badReply, _, _ => (st.answeredBadly, none)
  | _, _, _ => (st, none)

/-- R52: the report of an ABSENT station. -/
def Station.absentReport (st : Station) (r : Report) : Station × Option Transition :=
  match r.outcome, r.job, r.reply with
  | .good, .probe _ _, some p => (st.find p, some .found)
  | _, _, _ => (st, none)

/-- R41, R47: the station manager applies a report by the state the target holds. -/
def Station.report (st : Station) (r : Report) : Station × Option Transition :=
  match st.state with
  | .unused => (st, none)
  | .absent => st.absentReport r
  | .isolated => st.isolatedReport r
  | .online | .degraded => st.servedReport r

/-- R47: the notification of a transition; only FOUND carries a code, the station type. -/
def Transition.note (t : Transition) (n : StationId) (st : Station) (time : Stamp) : Notification :=
  { kind := t.noteKind, station := n, code := if t = .found then st.stationType else 0, time := time }

/-! ### Round list and discovery list entries of a station -/

/-- R110: a station's pending round item leaves the round list. -/
def State.removeRoundItem (s : State) (n : StationId) : State :=
  s.setSched { s.sched with roundList := s.sched.roundList.filter (fun i => i.station ≠ n) }

/-- R59, R105: a station's entry leaves the discovery list. -/
def State.removeDiscoveryEntry (s : State) (n : StationId) : State :=
  s.setSched { s.sched with discovery := s.sched.discovery.filter (fun m => m ≠ n) }

/-- R53: the hand-off of a transition to the link scheduler. -/
def State.handToScheduler (s : State) (n : StationId) (t : Transition) : State :=
  if t = .isolated ∨ t = .lost then s.removeRoundItem n else s

/-- R37, step 1: the station manager takes the report; answers the transition it made. -/
def stationStep (r : Report) (s : State) : State × Option Transition :=
  match r.job.station? with
  | none => (s, none)
  | some n =>
    let (st, tr) := (s.station n).report r
    match tr with
    | none => (s.setStation n st, none)
    | some t => (((s.setStation n st).offer (t.note n st r.endTime)).handToScheduler n t, some t)

/-! ### ENABLE, DISABLE and START on an entry -/

/-- R58: an UNUSED entry becomes ABSENT. -/
def Station.enable (st : Station) : Station := { st with state := .absent }

/-- R59: the entry becomes UNUSED; class, mode, type and last status are kept. -/
def Station.disable (st : Station) : Station :=
  { st with
    state := .unused
    faultCounter := 0
    missCount := 0
    nextToggle := false
    resync := false
    disablePending := false }.clearAttention

/-- R64: START makes an entry that is not UNUSED ABSENT; class, mode, type and last status are kept. -/
def Station.restart (st : Station) : Station :=
  if st.state = .unused then st
  else
    { st with
      state := .absent
      faultCounter := 0
      missCount := 0
      nextToggle := false
      resync := false }.clearAttention

end Sys2Proof.Machine
end

