-- ==== Sys2Proof/Machine/Attention.lean ====
section
/-! DEFINITION. The attention unit (chapter 6): latching, CLEARATTN and mode changes. -/

namespace Sys2Proof.Machine

/-- R123: a GOOD acknowledge-attention exchange clears ack-pending. -/
def Station.acknowledged (st : Station) (r : Report) : Station :=
  match r.job, r.outcome with
  | .attnAck _, .good => { st with ackPending := false }
  | _, _ => st

/-- R116: the reply shows attention and the station takes it as a new one. -/
def Station.latches (st : Station) (reply : Reply) : Bool := reply.attention && !st.ackPending && !st.latch

/-- R116, third row. -/
def Station.latchCode (st : Station) (code : Byte) : Station := { st with latch := true, attnCode := code }

/-- R116, R117: the reply's attention flag and code are taken for station `n`. -/
def takeAttention (n : StationId) (reply : Reply) (time : Stamp) (s : State) : State :=
  if (s.station n).latches reply then
    (s.setStation n ((s.station n).latchCode reply.code)).offer
      { kind := .attn, station := n, code := reply.code, time := time }
  else s

/-- R37, step 2: the attention unit takes the report, from a station that is then ONLINE or DEGRADED (R115). -/
def attentionStep (r : Report) (s : State) : State :=
  match r.job.station? with
  | none => s
  | some n =>
    if (s.station n).served then
      let s1 := s.setStation n ((s.station n).acknowledged r)
      match r.reply with
      | some reply => takeAttention n reply r.endTime s1
      | none => s1
    else s

/-- R121: CLEARATTN on an entry. -/
def Station.clearAttn (st : Station) : Station × ResultCode :=
  if st.state = .unused then (st, .wrongState)
  else if st.latch then
    ({ st with latch := false, attnCode := 0, ackPending := if st.mode = .edge then true else st.ackPending }, .ok)
  else (st, .ok)

/-- R62, R124: a write of class and mode; a change from EDGE to LEVEL drops ack-pending. -/
def Station.configure (st : Station) (c : StationClass) (m : AttentionMode) : Station :=
  { st with
    cls := c
    mode := m
    ackPending := if st.mode = .edge ∧ m = .level then false else st.ackPending }

end Sys2Proof.Machine
end

