-- ==== Sys2Proof/Machine/Slots.lean ====
section
/-! DEFINITION. The slot controller (chapter 4): the outcome of a request exchange, the overrides, the mass
failures, completion, and QUEUE, WITHDRAW and RELEASE on a slot. -/

namespace Sys2Proof.Machine

/-- R84, R83: the slot is QUEUED again in its place. -/
def Slot.requeue (sl : Slot) : Slot := { sl with state := .queued }

/-- The slot becomes FAILED with an outcome; a backoff timer that runs is cancelled (R82). -/
def Slot.fail (sl : Slot) (o : SlotOutcome) : Slot := { sl with state := .failed, outcome := o, backoff := none }

/-- R78, item 1: the attempt is counted when the frame was sent whole; the count stops at 255. -/
def Slot.countAttempt (sl : Slot) (whole : Bool) : Slot :=
  if whole then { sl with attempts := if sl.attempts = 255 then 255 else sl.attempts + 1 } else sl

/-- R79: reply byte `i`: the payload's byte, and beyond it the byte that is there. -/
def storeReply (old : Vector Byte 32) (payload : List Byte) : Vector Byte 32 :=
  Vector.ofFn (fun i => payload.getD i.val old[i])

/-- R79: the slot's reply kind. -/
def ReplyKind.slotKind : ReplyKind → SlotReplyKind
  | .data => .data
  | .ack => .ack
  | .present | .status | .busy | .refuse => .none

/-- R79: a GOOD outcome. -/
def Slot.complete (sl : Slot) (r : Reply) : Slot :=
  { sl with
    state := .done
    outcome := .ok
    replyKind := r.kind.slotKind
    replyLen := r.payload.length
    replyBytes := storeReply sl.replyBytes r.payload }

/-- R80: a REFUSED outcome. -/
def Slot.refuse (sl : Slot) (r : Reply) : Slot := { sl.fail .refused with reason := r.firstByte }

/-- R81, R82: a BUSY outcome decided at the instant `t`. -/
def Slot.busy (sl : Slot) (c : TimingConfig) (t : Nat) : Slot :=
  if sl.busyCount < c.busylim.toNat then
    { sl with state := .waiting, busyCount := sl.busyCount + 1, backoff := some (t + c.backoffTime) }
  else sl.fail .busyLimit

/-- R83: a MISS or BADREPLY outcome; `o` is the outcome of the failure. -/
def Slot.retry (sl : Slot) (c : TimingConfig) (o : SlotOutcome) : Slot :=
  if sl.failCount < c.retry.toNat then { sl.requeue with failCount := sl.failCount + 1 } else sl.fail o

/-- R78, item 2: the outcome is applied by the rule for that outcome. -/
def Slot.applyOutcome (sl : Slot) (c : TimingConfig) (r : Report) : Slot :=
  match r.outcome, r.reply with
  | .good, some p => sl.complete p
  | .refused, some p => sl.refuse p
  | .busy, _ => sl.busy c r.decidedAt
  | .miss, _ => sl.retry c .noReply
  | .badReply, _ => sl.retry c .badReply
  | .lineError, _ => sl.requeue
  | .good, none | .refused, none | .sent, _ => sl

/-- R83: the slot failed with its retries used up. -/
def Slot.exhausted (sl : Slot) : Bool :=
  sl.state = .failed && (sl.outcome = .noReply || sl.outcome = .badReply)

/-- R85: the override by what the station manager did at step 1. -/
def Slot.overrideByStation (sl : Slot) (t : Option Transition) : Slot :=
  if t = some .lost ∧ (sl.state = .queued ∨ sl.exhausted = true) then sl.fail .stationLost
  else if t = some .isolated ∧ sl.state = .queued then sl.fail .stationIsolated
  else sl

/-- R86: the override by disable-pending and by the link STOPPING. -/
def Slot.overrideByHost (sl : Slot) (disablePending stopping : Bool) : Slot :=
  if sl.waitingForService then
    if disablePending then sl.fail .stationDisabled
    else if stopping then sl.fail .stopped
    else sl
  else sl

/-- R89: a slot that has become DONE or FAILED is stamped. -/
def Slot.stamped (sl : Slot) (t : Stamp) : Slot := if sl.finished then { sl with finishTime := t } else sl

/-- R78, items 1 to 3, and R89, on the ACTIVE slot. -/
def Slot.report (sl : Slot) (c : TimingConfig) (r : Report) (t : Option Transition)
    (disablePending stopping : Bool) : Slot :=
  (((((sl.countAttempt r.frameWhole).applyOutcome c r).overrideByStation t).overrideByHost disablePending
    stopping).stamped r.endTime)

/-! ### The service list -/

/-- R74: a slot leaves the service list; the others keep their order. -/
def State.leaveService (s : State) (i : SlotId) : State := s.setService (s.service.filter (fun j => j ≠ i))

/-- R56: the station's resync flag is set. -/
def State.setResync (s : State) (n : StationId) : State := s.setStation n { s.station n with resync := true }

/-- R78, R89: the report of a request exchange on its ACTIVE slot `i`, whose station is `n`. -/
def applyToSlot (r : Report) (t : Option Transition) (i : SlotId) (n : StationId) (s : State) : State :=
  let sl := (s.slot i).report s.link.config r t (s.station n).disablePending (s.link.state = .stopping)
  let s1 := s.setSlot i sl
  let s2 := if sl.finished then s1.leaveService i else s1
  if sl.exhausted then s2.setResync n else s2

/-- R87, R88: the slots that `p` picks and that are QUEUED or WAITING fail with `o`, all in one event.  They fail in
service-list order, which leaves no trace, since they are stamped alike (log 20). -/
def failSlots (p : Slot → Bool) (o : SlotOutcome) (t : Stamp) (s : State) : State :=
  (s.setSlots
    (mapVec (fun sl => if p sl && sl.waitingForService then (sl.fail o).stamped t else sl) s.slots)).setService
    (s.service.filter (fun i => !(p (s.slot i) && (s.slot i).waitingForService)))

/-- The slot is for station `n`. -/
def Slot.isFor (sl : Slot) (n : StationId) : Bool := sl.station = address n

/-- R87: every QUEUED or WAITING slot for station `n` fails. -/
def failStationSlots (n : StationId) (o : SlotOutcome) (t : Stamp) (s : State) : State :=
  failSlots (fun sl => sl.isFor n) o t s

/-- R87: the mass failure that a transition calls for. -/
def massFailure (n : StationId) (tr : Option Transition) (t : Stamp) (s : State) : State :=
  match tr with
  | some .lost => failStationSlots n .stationLost t s
  | some .isolated => failStationSlots n .stationIsolated t s
  | some .found | some .degraded | some .healthy | some .restored | none => s

/-- R37, step 3: the slot controller takes the report and the transition of step 1. -/
def slotStep (r : Report) (t : Option Transition) (s : State) : State :=
  let s1 :=
    match r.job with
    | .request i _ n _ => applyToSlot r t i n s
    | .probe _ _ | .poll _ | .attnAck _ | .timeMark => s
  match r.job.station? with
  | some n => massFailure n t r.endTime s1
  | none => s1

/-! ### Commands on a slot -/

/-- R72: the result fields are cleared and the slot becomes QUEUED. -/
def Slot.enqueue (sl : Slot) : Slot :=
  { sl with
    state := .queued
    outcome := .none
    reason := 0
    replyKind := .none
    replyLen := 0
    replyBytes := Vector.replicate 32 0
    attempts := 0
    busyCount := 0
    failCount := 0
    finishTime := 0 }

/-- R72, check 4. -/
def Slot.requestFits (sl : Slot) : Bool := (stationAt? sl.station).isSome && sl.kind.lengthFits sl.reqLen

/-- R72, check 5. -/
def State.stationTakesRequests (s : State) (a : BitVec 5) : Bool :=
  match stationAt? a with
  | some n => (s.station n).served && !(s.station n).disablePending
  | none => false

/-- R72, check 3. -/
def LinkState.takesQueue : LinkState → Bool
  | .stopped | .stopping | .faulted => false
  | .starting | .running | .holding | .held => true

/-- R72, checks 2 to 5 and the effect, for a slot number in range. -/
def queueSlot (i : SlotId) (s : State) : State × ResultCode :=
  if (s.slot i).state ≠ .loaded then (s, .notLoaded)
  else if !s.link.state.takesQueue then (s, .wrongState)
  else if !(s.slot i).requestFits then (s, .badRequest)
  else if !s.stationTakesRequests (s.slot i).station then (s, .stationDown)
  else ((s.setSlot i (s.slot i).enqueue).setService (s.service ++ [i]), .ok)

/-- R90: WITHDRAW, for a slot number in range. -/
def withdrawSlot (i : SlotId) (s : State) : State × ResultCode :=
  match (s.slot i).state with
  | .queued | .waiting =>
    ((s.setSlot i { s.slot i with state := .loaded, backoff := none }).leaveService i, .ok)
  | .active => (s, .tooLate)
  | .free | .loaded | .done | .failed => (s, .wrongState)

/-- R92: RELEASE, for a slot number in range. -/
def releaseSlot (i : SlotId) (s : State) : State × ResultCode :=
  match (s.slot i).state with
  | .loaded | .done | .failed => (s.setSlot i .reset, .ok)
  | .free | .queued | .waiting | .active => (s, .wrongState)

/-- R82: at the expiry of its backoff timer a WAITING slot becomes QUEUED. -/
def backoffExpires (i : SlotId) (s : State) : State :=
  match (s.slot i).backoff with
  | some t =>
    if (s.slot i).state = .waiting ∧ t ≤ s.clock then
      s.setSlot i { s.slot i with state := .queued, backoff := none }
    else s
  | none => s

/-! ### Host writes to a slot -/

/-- R68, R69: a write to a request field of the selected slot. -/
def writeSlotField (f : SlotField) (v : Byte) (s : State) : State :=
  let i := s.host.slotsel
  if (s.slot i).hostOwned then
    match (s.slot i).writeField? f v with
    | some sl => s.setSlot i { sl with state := .loaded }
    | none => s.rejectWrite
  else s.rejectWrite

/-- R179: SLPTR advances by 1, from 31 to 0. -/
def State.advancePointer (s : State) : State := s.setHost { s.host with slptr := s.host.slptr + 1 }

/-- R70, R179: a write of a request byte through SLREQ. -/
def writeSlreq (v : Byte) (s : State) : State :=
  let i := s.host.slotsel
  let sl := s.slot i
  (if sl.hostOwned then
    s.setSlot i { sl with state := .loaded, reqBytes := sl.reqBytes.set s.host.slptr v }
  else s.rejectWrite).advancePointer

end Sys2Proof.Machine
end

