-- ==== Sys2Proof/Machine/Rounds.lean ====
section
/-! DEFINITION. The link scheduler (chapter 5): rounds, discovery, the precedence of jobs and the burst rule. -/

namespace Sys2Proof.Machine

/-- R106: the counter is a multiple of the divisor. -/
def dividesRound (d : Byte) (counter : BitVec 16) : Bool := counter.toNat % d.toNat = 0

/-- R108: the item of a station in the build of a round. -/
def roundItem? (c : TimingConfig) (counter : BitVec 16) (n : StationId) (st : Station) : Option RoundItem :=
  match st.state with
  | .unused => none
  | .absent => if dividesRound c.probediv counter then some ⟨n, .probe⟩ else none
  | .isolated => if dividesRound c.probediv counter then some ⟨n, .recoveryProbe⟩ else none
  | .online | .degraded =>
    match st.cls with
    | .fast => some ⟨n, .poll⟩
    | .slow => if dividesRound c.slowdiv counter then some ⟨n, .poll⟩ else none
    | .off => none

/-- R108: the round list of a counter value, in ascending address order. -/
def State.buildRound (s : State) (counter : BitVec 16) : List RoundItem :=
  allStations.filterMap (fun n => roundItem? s.link.config counter n (s.station n))

/-- R106: the round timer as a round start leaves it. -/
def State.roundTimerFor (s : State) (items : List RoundItem) : RoundTimer :=
  if s.link.config.round = 0 then
    if items = [] then .running (s.clock + emptyRoundTime) else .noExpiry
  else .running (s.clock + s.link.config.roundTime)

/-- R107: a round start raises the round counter, restarts the timer and builds the list.  The instant of the start,
from which the timer counts, is the clock of the step; so it is too where the MISS that empties the list is stamped with
an earlier expiry (log 9, log 10): log 31, the model's choice. -/
def startRound (s : State) : State :=
  let counter := s.sched.roundCounter + 1
  let items := s.buildRound counter
  s.setSched
    { s.sched with roundCounter := counter, roundTimer := s.roundTimerFor items, roundList := items }

/-- R106: the timer has expired; the timer of ROUND 0 counts as expired from the start. -/
def RoundTimer.elapsed : RoundTimer → Bool
  | .expired | .noExpiry => true
  | .stopped | .running _ => false

/-- R106: a round is due when its timer has expired and the round list is empty. -/
def Scheduler.roundDue (c : Scheduler) : Bool := c.roundTimer.elapsed && c.roundList.isEmpty

/-- R107: a round that is due starts while the link is RUNNING. -/
def startRoundIfDue (s : State) : State :=
  if s.link.state = .running ∧ s.sched.roundDue = true then startRound s else s

/-- R155: the link enters RUNNING at the end of discovery, LINK is set and round 1 is started. -/
def enterRunning (s : State) : State :=
  startRound ((s.setLink { s.link with state := .running }).setLinkFlag)

/-- R104, R155: discovery is complete when its list is empty while the link is STARTING. -/
def completeDiscovery (s : State) : State :=
  if s.link.state = .starting ∧ s.sched.discovery = [] then enterRunning s else s

/-- R104, R106, R107: what follows when an entry has left the discovery list or the round list. -/
def afterRemoval (s : State) : State := startRoundIfDue (completeDiscovery s)

/-- R106: the round timer expires.  RLATE is set when items are left; otherwise the next round is due. -/
def roundTimerExpires (s : State) : State :=
  match s.sched.roundTimer with
  | .running t =>
    if t ≤ s.clock then
      startRoundIfDue
        (s.setSched
          { s.sched with roundTimer := .expired, rlate := s.sched.rlate || !s.sched.roundList.isEmpty })
    else s
  | .stopped | .noExpiry | .expired => s

/-- R112: the lists are emptied and the round timer stopped; the counters and RLATE are kept. -/
def Scheduler.rest (c : Scheduler) : Scheduler :=
  { c with roundList := [], discovery := [], roundTimer := .stopped }

/-! ### The exchange of a list entry ends -/

/-- R109: the item at the head of the round list leaves it, unless the report has removed it already. -/
def State.leaveRoundList (s : State) (n : StationId) : State :=
  match s.sched.roundList with
  | i :: rest => if i.station = n then s.setSched { s.sched with roundList := rest } else s
  | [] => s

/-- R104: the station at the head of the discovery list leaves it. -/
def State.leaveDiscovery (s : State) (n : StationId) : State :=
  match s.sched.discovery with
  | m :: rest => if m = n then s.setSched { s.sched with discovery := rest } else s
  | [] => s

/-- R104, R109: the entry whose exchange has ended leaves its list. -/
def leaveList (j : Job) (s : State) : State :=
  match j with
  | .probe .discovery n => s.leaveDiscovery n
  | .probe .absentStation n => s.leaveRoundList n
  | .probe .recovery n => s.leaveRoundList n
  | .poll n => s.leaveRoundList n
  | .probe .resync _ | .request _ _ _ _ | .attnAck _ | .timeMark => s

/-! ### The choice -/

/-- R99: the lowest station with resync probe work. -/
def State.resyncWork? (s : State) : Option StationId :=
  allStations.find? (fun n => (s.station n).served && (s.station n).resync)

/-- R100: the lowest station with acknowledge-attention work. -/
def State.ackWork? (s : State) : Option StationId :=
  allStations.find? (fun n => (s.station n).served && (s.station n).ackPending)

/-- R75, third line: the slot's station takes requests and its resync flag is clear. -/
def State.stationServes (s : State) (a : BitVec 5) : Bool :=
  match stationAt? a with
  | some n => (s.station n).served && !(s.station n).resync && !(s.station n).disablePending
  | none => false

/-- R75, last line: an earlier slot of the service list holds an ordered slot back. -/
def State.blocks (s : State) (sl : Slot) (earlier : SlotId) : Bool :=
  (s.slot earlier).station = sl.station && (s.slot earlier).waitingForService

/-- R75: the slot is eligible; `earlier` are the slots that stand before it in the service list. -/
def State.eligible (s : State) (earlier : List SlotId) (i : SlotId) : Bool :=
  (s.slot i).state = .queued && s.link.state = .running && s.stationServes (s.slot i).station &&
    (!(s.slot i).ordered || earlier.all (fun j => !s.blocks (s.slot i) j))

/-- R75: the eligible slots of the rest of the service list, in its order. -/
def State.eligibleAfter (s : State) : List SlotId → List SlotId → List SlotId
  | _, [] => []
  | earlier, i :: rest =>
    if s.eligible earlier i then i :: s.eligibleAfter (earlier ++ [i]) rest
    else s.eligibleAfter (earlier ++ [i]) rest

/-- R75: the eligible slots. -/
def State.eligibleSlots (s : State) : List SlotId := s.eligibleAfter [] s.service

/-- R76: of a list of slots, the one with the lowest priority value, and the earliest of these. -/
def State.mostUrgent (s : State) : List SlotId → Option SlotId
  | [] => none
  | i :: rest =>
    match s.mostUrgent rest with
    | none => some i
    | some j => if (s.slot i).priority ≤ (s.slot j).priority then some i else some j

/-- R76: the slot to go next. -/
def State.chosenSlot? (s : State) : Option SlotId := s.mostUrgent s.eligibleSlots

/-- R10, R25: the job of a chosen slot, with the station's next toggle. -/
def State.requestJob? (s : State) (i : SlotId) : Option Job :=
  (stationAt? (s.slot i).station).map (fun n => .request i (s.slot i).kind n (s.station n).nextToggle)

/-- R109: the job of a round item. -/
def RoundItem.job (i : RoundItem) : Job :=
  match i.kind with
  | .poll => .poll i.station
  | .probe => .probe .absentStation i.station
  | .recoveryProbe => .probe .recovery i.station

/-- R101: a request or a round item, as the burst rule gives. -/
def State.burstJob? (s : State) : Option Job :=
  match s.sched.roundList with
  | item :: _ =>
    if s.link.config.burst.toNat ≤ s.sched.burstCounter then some item.job
    else
      match s.chosenSlot? with
      | some i => s.requestJob? i
      | none => some item.job
  | [] => s.chosenSlot?.bind s.requestJob?

/-- R97: the first job available in RUNNING. -/
def State.runningJob? (s : State) : Option Job :=
  if s.time.pendingMark then some .timeMark
  else
    match s.resyncWork? with
    | some n => some (.probe .resync n)
    | none =>
      match s.ackWork? with
      | some n => some (.attnAck n)
      | none => s.burstJob?

/-- R96: the first job available in STARTING. -/
def State.startingJob? (s : State) : Option Job :=
  if s.time.pendingMark then some .timeMark
  else s.sched.discovery.head?.map (fun n => .probe .discovery n)

/-- R95, R96, R97: the job a choice takes, by the link state. -/
def State.availableJob? (s : State) : Option Job :=
  match s.link.state with
  | .starting => s.startingJob?
  | .running => s.runningJob?
  | .stopped | .holding | .held | .stopping | .faulted => none

/-- R101: the burst counter after a job has been begun. -/
def burstAfter (c : TimingConfig) (burst : Nat) : Job → Nat
  | .request _ _ _ _ => if burst < c.burst.toNat then burst + 1 else burst
  | .poll _ | .probe .absentStation _ | .probe .recovery _ => 0
  | .probe .discovery _ | .probe .resync _ | .attnAck _ | .timeMark => burst

/-- R77: the chosen slot becomes ACTIVE. -/
def activateSlot (j : Job) (s : State) : State :=
  match j with
  | .request i _ _ _ => s.setSlot i { s.slot i with state := .active }
  | .probe _ _ | .poll _ | .attnAck _ | .timeMark => s

/-- R25, R77, R101: the engine takes the job, builds the frame and starts the lead byte. -/
def startExchange (j : Job) (s : State) : State :=
  let e : Exchange :=
    { job := j, frame := s.buildFrame j, startedAt := s.clock, phase := .transmitting 0 }
  let s1 := (activateSlot j s).setEngine (some e)
  s1.setSched { s1.sched with burstCounter := burstAfter s1.link.config s1.sched.burstCounter j }

/-- R25: the line is free. -/
def State.lineFree (s : State) : Bool := s.engine.isNone && s.receiver.gapPassed

/-- R95: the scheduler's choice. -/
def schedulerChooses (s : State) : State :=
  if s.lineFree then
    match s.availableJob? with
    | some j => startExchange j s
    | none => s
  else s

end Sys2Proof.Machine
end

