-- ==== Sys2Proof/Machine/LinkControl.lean ====
section
/-! DEFINITION. The link controller (chapter 9) and the time base (chapter 8): the entries to the resting states,
the line-error count, the interval timer and the pending mark. -/

namespace Sys2Proof.Machine

/-! ### Time base -/

/-- R147, R148: the interval timer is stopped and the pending mark cleared, as on entry to STOPPED or FAULTED. -/
def TimeBase.rest (t : TimeBase) : TimeBase := { t with interval := none, pendingMark := false }

/-- R147: START with TMARK not 0 starts the timer; with TMARK 0 it stays stopped. -/
def startInterval (s : State) : State :=
  if s.link.config.tmark = 0 then s.setTime { s.time with interval := none }
  else
    s.setTime
      { s.time with
        interval := some { expiresAt := s.clock + s.link.config.markPeriod, period := s.link.config.markPeriod } }

/-- R147: the timer stops on entry to STOPPING. -/
def stopInterval (s : State) : State := s.setTime { s.time with interval := none }

/-- R147, R148: an expiry makes a mark pending, or merges into the one pending; the timer restarts from the expiry. -/
def intervalExpires (s : State) : State :=
  match s.time.interval with
  | some t =>
    if t.expiresAt ≤ s.clock then
      s.setTime { s.time with pendingMark := true, interval := some { t with expiresAt := t.expiresAt + t.period } }
    else s
  | none => s

/-- R145: a TIME0 read copies the counter into the snapshot. -/
def takeSnapshot (s : State) : State := s.setTime { s.time with snapshot := s.time.counter }

/-- R144: the counter rises by 1 every microsecond, wrapping from 4294967295 to 0. -/
def tick (s : State) : State := { s.setTime { s.time with counter := s.time.counter + 1 } with clock := s.clock + 1 }

/-! ### Entries of the link state -/

def State.setLinkState (s : State) (l : LinkState) : State := s.setLink { s.link with state := l }

/-- R156, R159: the link enters HELD, and LINK is set. -/
def enterHeld (s : State) : State := (s.setLinkState .held).setLinkFlag

/-- R160: what entering STOPPED and entering FAULTED do to the scheduler and the time base. -/
def restScheduler (s : State) : State := (s.setSched s.sched.rest).setTime s.time.rest

/-- R161: the link enters FAULTED; the slots keep their states. -/
def enterFaulted (s : State) : State := restScheduler ((s.setLinkState .faulted).setLinkFlag)

/-- R160: the link enters STOPPED; every QUEUED and WAITING slot fails with STOPPED, stamped `t` (R88). -/
def enterStopped (t : Stamp) (s : State) : State :=
  restScheduler (failSlots (fun _ => true) .stopped t ((s.setLinkState .stopped).setLinkFlag))

/-- R163: the line-error count after an outcome. -/
def countAfter (n : Nat) : ExchangeOutcome → Nat
  | .lineError => n + 1
  | .good | .busy | .refused | .sent => 0
  | .miss | .badReply => n

/-- R159: the count has just reached 8. -/
def reachesLimit (n : Nat) (o : ExchangeOutcome) : Bool := o = .lineError && faultedAt ≤ countAfter n o

/-- R37, step 5, and R159: the count is taken and the link is moved on. -/
def linkStep (r : Report) (s : State) : State :=
  let limit := reachesLimit s.link.lineErrors r.outcome
  let s1 := s.setLink { s.link with lineErrors := countAfter s.link.lineErrors r.outcome }
  match s.link.state with
  | .starting | .running => if limit then enterFaulted s1 else s1
  | .holding => if limit then enterFaulted s1 else enterHeld s1
  | .stopping => enterStopped r.endTime s1
  | .stopped | .held | .faulted => s1

/-- R37, step 6, and R148: a SENT clears the pending mark. -/
def timeStep (r : Report) (s : State) : State :=
  if r.outcome = .sent then s.setTime { s.time with pendingMark := false } else s

/-! ### DISABLE -/

/-- R59: the disable itself: the entry, the round item and the discovery entry, and the station's slots, stamped
`t`. -/
def applyDisable (n : StationId) (t : Stamp) (s : State) : State :=
  failStationSlots n .stationDisabled t
    (((s.setStation n (s.station n).disable).removeRoundItem n).removeDiscoveryEntry n)

/-- R37, step 4, and R60: a DISABLE deferred on the target is applied. -/
def disableStep (r : Report) (s : State) : State :=
  match r.job.station? with
  | some n => if (s.station n).disablePending then applyDisable n r.endTime s else s
  | none => s

/-! ### The report of an exchange -/

/-- R37: the exchange is over; the report is taken in steps 1 to 6, and then the entry whose exchange it was leaves
its list (R104, R109). -/
def takeReport (r : Report) (s : State) : State :=
  let (s1, t) := stationStep r (s.setEngine none)
  afterRemoval (leaveList r.job (timeStep r (linkStep r (disableStep r (slotStep r t (attentionStep r s1))))))

/-- R35, R36: the exchange `e` ends with an outcome decided at the instant `t`. -/
def endExchange (e : Exchange) (whole : Bool) (o : ExchangeOutcome) (reply : Option Reply) (t : Nat)
    (s : State) : State :=
  takeReport
    { job := e.job, frameWhole := whole, outcome := o, reply := reply, decidedAt := t, endTime := s.counterAt t } s

end Sys2Proof.Machine
end

