-- ==== Sys2Proof/Machine/Line.lean ====
section
/-! DEFINITION. The line: the receiver (R4, R17), the transmission and its comparison (R26 to R28), the wait for the
reply (R29), its reception (R30, R31) and the quiet wait (R33, R34); and the output pins TXEN and TXD. -/

namespace Sys2Proof.Machine

/-! ### Instants of an exchange -/

/-- R11: the end of the last stop bit of the frame, the instant TXEN goes low and the window opens (R15). -/
def State.frameEnd (s : State) (e : Exchange) : Nat := e.startedAt + e.frame.length * s.byteTime

/-- R15: the expiry of the response window. -/
def State.windowExpiry (s : State) (e : Exchange) : Nat := s.frameEnd e + s.link.config.window

/-- R26: the latest instant at which the byte after `compared` bytes is delivered in time: one bit time after the
end of the stop bit of the byte sent. -/
def State.echoLimitAt (s : State) (e : Exchange) (compared : Nat) : Nat :=
  e.startedAt + (compared + 1) * s.byteTime + s.bitTime

/-- R34: the quiet-wait deadline of a reply that began at `replyStart` and was found bad at `badAt`. -/
def State.quietDeadline (s : State) (replyStart badAt : Nat) : Nat :=
  max (replyStart + deadlineAfterStartBytes * s.byteTime) (badAt + deadlineAfterBadBytes * s.byteTime)

/-- R16: the instant at which the gap after the last byte delivered reaches 2 byte times. -/
def State.gapLimit (s : State) : Nat := s.receiver.lastEnd + gapLimitBytes * s.byteTime

/-- R17, R33: the idle count has reached `n` byte times. -/
def State.idleFor (s : State) (n : Nat) : Bool :=
  match s.receiver.idleSince with
  | some t => t + n * s.byteTime ≤ s.clock
  | none => false

/-! ### Pins -/

/-- R1, R11: TXEN is high from the start of the lead byte to the end of the last stop bit, while the exchange has
not been stopped.  A time mark whose last byte is read back up to half a bit early ends in SENT before that stop bit
ends, and TXEN then falls at the SENT: log 30, the model's choice. -/
def State.txen (s : State) : Bool :=
  match s.engine with
  | some e => s.clock < s.frameEnd e
  | none => false

/-- R2: the level of bit time `k` of a byte: a low start bit, the data bits from bit 0, a high stop bit. -/
def lineLevel (b : Byte) (k : Nat) : Bool := if k = 0 then false else if k ≤ 8 then b.getLsbD (k - 1) else true

/-- R1, R2: TXD carries the frame's bytes back to back while TXEN is high, and is high otherwise. -/
def State.txd (s : State) : Bool :=
  match s.engine with
  | some e =>
    if s.txen then
      let bit := (s.clock - e.startedAt) / s.bitTime
      lineLevel (byteAt e.frame (bit / 10)) (bit % 10)
    else true
  | none => true

/-! ### Receiver -/

/-- R4: the line is idle, so that a falling edge of RXD is seen: RXD is high and no byte is being assembled, or the
byte being assembled has had its stop bit sampled (log 11; what becomes of that edge, log 29).  While one edge awaits its
confirmation a second one is not seen: log 32, the model's choice. -/
def State.edgeSeen (s : State) : Bool :=
  s.receiver.edge.isNone && !s.receiver.heldLow &&
    match s.receiver.assembling with
    | some a => a.start + 9 * a.bitTime + a.bitTime / 2 ≤ s.clock
    | none => true

/-- R4: a falling edge that may be a start bit. -/
def fallingEdge (s : State) : State :=
  if s.edgeSeen then s.setReceiver { s.receiver with edge := some s.clock } else s

/-- R4, R17, R33: a confirmed start bit: the byte's start is the edge, and the idle count stops. -/
def Receiver.confirm (r : Receiver) (edge : Nat) (bit : Nat) : Receiver :=
  { r with edge := none, assembling := some { start := edge, bitTime := bit }, idleSince := none, gapPassed := false }

/-- R15, R29: the first confirmed start bit seen while the engine waits for the reply begins it, when its edge is no
later than the expiry.  An edge up to half a bit time before the window opened begins the reply too, whether it is
confirmed after the window opened or, where the last byte read back ended early, before: log 28, the model's choice. -/
def beginReply (edge : Nat) (s : State) : State :=
  match s.engine with
  | some e =>
    match e.phase with
    | .awaitingReply w =>
      if edge ≤ w then s.setEngine (some { e with phase := .receiving edge [] }) else s
    | .transmitting _ | .receiving _ _ | .quietWait _ _ _ => s
  | none => s

/-- R4: half a bit time after the edge RXD is sampled.  Low confirms the start bit; high discards the edge. -/
def confirmStartBit (rxdLow : Bool) (s : State) : State :=
  match s.receiver.edge with
  | some t =>
    if t + s.bitTime / 2 ≤ s.clock ∧ s.receiver.assembling = none then
      if rxdLow then beginReply t (s.setReceiver (s.receiver.confirm t s.bitTime))
      else s.setReceiver { s.receiver with edge := none }
    else s
  | none => s

/-- R4: RXD is seen high after the end of a byte whose stop bit was sampled low (log 29); the idle count starts to
advance. -/
def seenHigh (s : State) : State :=
  if s.receiver.heldLow then
    s.setReceiver { s.receiver with heldLow := false, idleSince := some s.clock }
  else s

/-- R4, R17: the byte is delivered with its end; the idle count runs from the end when the line is idle then.  After
a stop bit sampled low the line is idle only once RXD has been seen high after the byte's end, and an edge seen before
that end is dropped; after one sampled high such an edge is kept: log 29, the model's choice. -/
def Receiver.deliver (r : Receiver) (byteEnd : Nat) (stopHigh : Bool) : Receiver :=
  { r with
    edge := if stopHigh then r.edge else none
    assembling := none
    heldLow := !stopHigh
    lastEnd := byteEnd
    idleSince := if stopHigh then some byteEnd else none
    gapPassed := false }

/-- R4: the end of a byte, ten bit times after its start. -/
def Assembly.byteEnd (a : Assembly) : Nat := a.start + byteTimeOf a.bitTime

/-! ### The engine takes a byte -/

/-- R26, R27, R28: the byte is compared with the one sent. -/
def compareEcho (e : Exchange) (compared : Nat) (v : Byte) (byteEnd : Nat) (s : State) : State :=
  if byteAt e.frame compared = v ∧ byteEnd ≤ s.echoLimitAt e compared then
    if compared + 1 < e.frame.length then s.setEngine (some { e with phase := .transmitting (compared + 1) })
    else if e.job = .timeMark then endExchange e true .sent none byteEnd s
    else s.setEngine (some { e with phase := .awaitingReply (s.windowExpiry e) })
  else endExchange e false .lineError none byteEnd s

/-- R23, R30, R31: the reply is found bad at the instant `t`, and the quiet wait begins.  The reply start and the
bytes received stay in the record. -/
def findBad (e : Exchange) (replyStart : Nat) (bytes : List Byte) (t : Nat) (s : State) : State :=
  s.setEngine (some { e with phase := .quietWait replyStart bytes (s.quietDeadline replyStart t) })

/-- R30, R31, R32: the byte is judged as a reply byte. -/
def judgeByte (e : Exchange) (replyStart : Nat) (bytes : List Byte) (byteEnd : Nat) (s : State) : State :=
  match judge e.job bytes with
  | .incomplete => s.setEngine (some { e with phase := .receiving replyStart bytes })
  | .bad => findBad e replyStart bytes byteEnd s
  | .valid r => endExchange e true r.kind.outcome (some r) byteEnd s

/-- R29: the line went low and has stayed low: the byte has the value 0 and its stop bit was sampled low (log 10). -/
def lineStayedLow (v : Byte) (stopHigh : Bool) : Bool := v = 0 && !stopHigh

/-- R29: a low that lasts gives no start bit of a reply, so no reply has begun and the window runs on to its expiry
(log 10). -/
def resumeWait (e : Exchange) (s : State) : State :=
  s.setEngine (some { e with phase := .awaitingReply (s.windowExpiry e) })

/-- R26, R29, R30, R33: what the engine makes of a byte delivered with its stop bit and its end.  Behind the first
byte of a reply a line that falls after a high stop bit and stays low is taken, by R4, as a reply byte of value 0, where
R16 has a line held low give no confirmed start bit: log 34, the model's choice. -/
def engineTakes (v : Byte) (stopHigh : Bool) (byteEnd : Nat) (s : State) : State :=
  match s.engine with
  | some e =>
    match e.phase with
    | .transmitting compared => compareEcho e compared v byteEnd s
    | .receiving replyStart bytes =>
      if bytes = [] ∧ lineStayedLow v stopHigh = true then resumeWait e s
      else judgeByte e replyStart (bytes ++ [v]) byteEnd s
    | .awaitingReply _ | .quietWait _ _ _ => s
  | none => s

/-- R4: the receiver delivers the byte it has assembled, at its end (log 11). -/
def receiveByte (v : Byte) (stopHigh : Bool) (s : State) : State :=
  match s.receiver.assembling with
  | some a =>
    if a.byteEnd ≤ s.clock then
      engineTakes v stopHigh a.byteEnd (s.setReceiver (s.receiver.deliver a.byteEnd stopHigh))
    else s
  | none => s

/-! ### The engine's limits -/

/-- R17: the turnaround count starts again from 0 at the instant `t`, or at the later instant from which the line has
been idle; on a line that is not idle it waits. -/
def Receiver.restartCount (r : Receiver) (t : Nat) : Receiver :=
  { r with idleSince := r.idleSince.map (fun idle => max idle t), gapPassed := false }

/-- R26: the byte being assembled ends no later than `limit`, so that it is delivered in time. -/
def State.byteDueBy (s : State) (limit : Nat) : Bool :=
  match s.receiver.assembling with
  | some a => a.byteEnd ≤ limit
  | none => false

/-- R17: the turnaround gap follows a frame the part stopped before its end.  It is counted from the end of the last
byte delivered; where the frame was stopped with none of its bytes delivered, from the instant of the stop (log 13). -/
def stopFrame (compared : Nat) (s : State) : State :=
  if compared = 0 then s.setReceiver (s.receiver.restartCount s.clock) else s

/-- R26, R27: no byte has been read back in time.  A byte whose end is no later than the limit is delivered first. -/
def echoLimitPasses (s : State) : State :=
  match s.engine with
  | some e =>
    match e.phase with
    | .transmitting compared =>
      let limit := s.echoLimitAt e compared
      if limit ≤ s.clock ∧ s.byteDueBy limit = false then
        endExchange e false .lineError none s.clock (stopFrame compared s)
      else s
    | .awaitingReply _ | .receiving _ _ | .quietWait _ _ _ => s
  | none => s

/-- R15, R16: an edge seen no later than `limit` still awaits its confirmation. -/
def State.edgeHolds (s : State) (limit : Nat) : Bool :=
  match s.receiver.edge with
  | some t => t ≤ limit
  | none => false

/-- R29: the response window expires with no reply begun, and the turnaround count starts again at the MISS (R17).
An edge seen in the window holds the expiry back until its confirmation, and a low that lasts until the end of its byte;
the MISS is decided at the expiry (log 9, log 10). -/
def windowExpires (s : State) : State :=
  match s.engine with
  | some e =>
    match e.phase with
    | .awaitingReply w =>
      if w ≤ s.clock ∧ s.edgeHolds w = false then
        endExchange e true .miss none w (s.setReceiver (s.receiver.restartCount w))
      else s
    | .transmitting _ | .receiving _ _ | .quietWait _ _ _ => s
  | none => s

/-- R33: the quiet count has reached 2 byte times: BADREPLY is decided at the instant `t`. -/
def decideQuiet (e : Exchange) (t : Nat) (s : State) : State := endExchange e true .badReply none t s

/-- R16, R30: the next byte's start bit has not come, and none is being confirmed or assembled. -/
def State.gapOpen (s : State) : Bool := s.receiver.assembling.isNone && !s.edgeHolds s.gapLimit

/-- R30, R33: the reply is cut off; on a line that has been idle for 2 byte times BADREPLY is decided at once. -/
def replyIsCutOff (s : State) : State :=
  match s.engine with
  | some e =>
    match e.phase with
    | .receiving replyStart bytes =>
      if bytes ≠ [] ∧ s.gapOpen = true ∧ s.gapLimit ≤ s.clock then
        if s.idleFor quietBytes then decideQuiet e s.clock s else findBad e replyStart bytes s.clock s
      else s
    | .transmitting _ | .awaitingReply _ | .quietWait _ _ _ => s
  | none => s

/-- R33: the line has been quiet for 2 byte times after a bad reply. -/
def quietCountReached (s : State) : State :=
  match s.engine with
  | some e =>
    match e.phase with
    | .quietWait _ _ _ => if s.idleFor quietBytes then decideQuiet e s.clock s else s
    | .transmitting _ | .awaitingReply _ | .receiving _ _ => s
  | none => s

/-- R34: the quiet-wait deadline passes. -/
def quietDeadlinePasses (s : State) : State :=
  match s.engine with
  | some e =>
    match e.phase with
    | .quietWait _ _ d => if d ≤ s.clock then endExchange e true .lineError none d s else s
    | .transmitting _ | .awaitingReply _ | .receiving _ _ => s
  | none => s

/-- R17: after 3 byte times of idle line the turnaround gap has passed. -/
def gapPasses (s : State) : State :=
  if s.idleFor turnaroundBytes then s.setReceiver { s.receiver with gapPassed := true } else s

end Sys2Proof.Machine
end

