-- ==== Sys2Proof/Machine/Commands.lean ====
section
/-! DEFINITION. The commands written to CMD (section 10.3): what each does to its owning block, the checks of the
code and of the argument, and the result left in CMDRES. -/

namespace Sys2Proof.Machine

/-! ### Link commands (R153) -/

/-- R154: START. -/
def startLink (s : State) : State × ResultCode :=
  match s.link.state with
  | .stopped =>
    let s1 := s.setStations (mapVec Station.restart s.stations)
    let s2 := (s1.setSched { s1.sched with roundCounter := 0, burstCounter := 0 }).setLink
      { s1.link with lineErrors := 0 }
    let s3 := startInterval s2
    let list := allStations.filter (fun n => (s3.station n).state = .absent)
    let s4 := s3.setSched { s3.sched with discovery := list }
    (completeDiscovery (s4.setLinkState .starting), .ok)
  | .starting | .running | .holding | .held | .stopping | .faulted => (s, .wrongState)

/-- R158: STOP. -/
def stopLink (s : State) : State × ResultCode :=
  match s.link.state with
  | .starting | .running =>
    if s.engine.isSome then (stopInterval (s.setLinkState .stopping), .deferred)
    else (enterStopped s.time.counter s, .ok)
  | .holding => (stopInterval (s.setLinkState .stopping), .deferred)
  | .held | .faulted => (enterStopped s.time.counter s, .ok)
  | .stopped | .stopping => (s, .wrongState)

/-- R156: HOLD. -/
def holdLink (s : State) : State × ResultCode :=
  match s.link.state with
  | .running => if s.engine.isSome then (s.setLinkState .holding, .deferred) else (enterHeld s, .ok)
  | .stopped | .starting | .holding | .held | .stopping | .faulted => (s, .wrongState)

/-- R157: RESUME. In HOLDING too a round that is due starts at the return to RUNNING, as R107 says (log 27). -/
def resumeLink (s : State) : State × ResultCode :=
  match s.link.state with
  | .holding | .held => (startRoundIfDue (s.setLinkState .running), .ok)
  | .stopped | .starting | .running | .stopping | .faulted => (s, .wrongState)

/-! ### Station commands -/

/-- R58: ENABLE of station `n`. -/
def enableStation (n : StationId) (s : State) : State × ResultCode :=
  if (s.station n).state = .unused then (s.setStation n (s.station n).enable, .ok) else (s, .wrongState)

/-- R59, R60: DISABLE of station `n`. -/
def disableStation (n : StationId) (s : State) : State × ResultCode :=
  if (s.station n).state = .unused then (s, .ok)
  else if s.inFlightWith n then (s.setStation n { s.station n with disablePending := true }, .deferred)
  else (afterRemoval (applyDisable n s.time.counter s), .ok)

/-- R121: CLEARATTN of station `n`. -/
def clearStationAttn (n : StationId) (s : State) : State × ResultCode :=
  ((s.setStation n (s.station n).clearAttn.1), (s.station n).clearAttn.2)

/-! ### The notification queue -/

/-- R138: POP. -/
def popQueue (s : State) : State × ResultCode :=
  match s.notes.queue with
  | [] => (s, .empty)
  | _ :: rest => (s.setNotes { s.notes with queue := rest }, .ok)

/-! ### Issuing a command -/

/-- R171, second check, for a command that takes a station number. -/
def withStation (f : StationId → State → State × ResultCode) (s : State) : State × ResultCode :=
  match stationOfByte? s.host.cmdarg with
  | some n => f n s
  | none => (s, .badArg)

/-- R171, second check, for a command that takes a slot number. -/
def withSlot (f : SlotId → State → State × ResultCode) (s : State) : State × ResultCode :=
  match slotOfByte? s.host.cmdarg with
  | some i => f i s
  | none => (s, .badArg)

/-- R171: the command acts as its owning block's rule gives, and answers its result code. -/
def commandEffect (k : CommandCode) (s : State) : State × ResultCode :=
  match k with
  | .start => startLink s
  | .stop => stopLink s
  | .hold => holdLink s
  | .resume => resumeLink s
  | .enable => withStation enableStation s
  | .disable => withStation disableStation s
  | .clearattn => withStation clearStationAttn s
  | .queue => withSlot queueSlot s
  | .withdraw => withSlot withdrawSlot s
  | .release => withSlot releaseSlot s
  | .pop => popQueue s

/-- R171: the command, its effect and the storing of its result are one event. -/
def issue (k : CommandCode) (s : State) : State := (commandEffect k s).1.setCmdres (commandEffect k s).2

/-- R171, R172: a write to CMD; a code that names no command gives BADARG and changes nothing else. -/
def writeCmd (v : Byte) (s : State) : State :=
  match CommandCode.ofByte? v with
  | some k => issue k s
  | none => s.setCmdres .badArg

/-! ### Meanings -/

/-- START. -/
def execStart (s : State) : Result := .next (hostAccess (issue .start) s)

/-- STOP. -/
def execStop (s : State) : Result := .next (hostAccess (issue .stop) s)

/-- HOLD. -/
def execHold (s : State) : Result := .next (hostAccess (issue .hold) s)

/-- RESUME. -/
def execResume (s : State) : Result := .next (hostAccess (issue .resume) s)

/-- ENABLE. -/
def execEnable (s : State) : Result := .next (hostAccess (issue .enable) s)

/-- DISABLE. -/
def execDisable (s : State) : Result := .next (hostAccess (issue .disable) s)

/-- CLEARATTN. -/
def execClearattn (s : State) : Result := .next (hostAccess (issue .clearattn) s)

/-- QUEUE. -/
def execQueue (s : State) : Result := .next (hostAccess (issue .queue) s)

/-- WITHDRAW. -/
def execWithdraw (s : State) : Result := .next (hostAccess (issue .withdraw) s)

/-- RELEASE. -/
def execRelease (s : State) : Result := .next (hostAccess (issue .release) s)

/-- POP. -/
def execPop (s : State) : Result := .next (hostAccess (issue .pop) s)

/-- UNKNOWN_COMMAND_CODE. -/
def execUnknownCommandCode (code : Byte) (s : State) : Result := .next (hostAccess (writeCmd code) s)

end Sys2Proof.Machine
end

