-- ==== Sys2Proof/Machine/HostPort.lean ====
section
/-! DEFINITION. The register window (chapter 10): what a read of each of the 64 addresses returns, what a write
does, and the meanings of the rows that are host accesses. -/

namespace Sys2Proof.Machine

/-! ### Writes of the registers -/

/-- R3: an accepted write to RATE starts the turnaround count again from 0 at the write; while a byte is being
assembled it starts at the end of that byte. -/
def rateWritten (r : ConfigRegister) (s : State) : State :=
  if r = .rate then s.setReceiver (s.receiver.restartCount s.clock) else s

/-- R165: accepted when the link is STOPPED and the value is in range, refused otherwise. -/
def writeConfig (r : ConfigRegister) (v : Byte) (s : State) : State :=
  if s.link.state = .stopped ∧ configInRange r v = true then
    rateWritten r (s.setLink { s.link with config := s.link.config.set r v })
  else s.rejectWrite

/-- R176. -/
def writeIenab (v : Byte) (s : State) : State :=
  match ienab? v with
  | some e => s.setHost { s.host with ienab := e }
  | none => s.rejectWrite

/-- R140. -/
def writeNthresh (v : Byte) (s : State) : State :=
  match nthresh? v with
  | some t => s.setNotes { s.notes with nthresh := t }
  | none => s.rejectWrite

/-- R182. -/
def writeFdefault (v : Byte) (s : State) : State :=
  match fdefault? v with
  | some a => s.setNotes { s.notes with fdefault := a }
  | none => s.rejectWrite

/-- R177: SLOTSEL is stored and SLPTR is set to 0, or the write is refused. -/
def writeSlotsel (v : Byte) (s : State) : State :=
  match slotOfByte? v with
  | some i => s.setHost { s.host with slotsel := i, slptr := 0 }
  | none => s.rejectWrite

/-- R179. -/
def writeSlptr (v : Byte) (s : State) : State :=
  match pointerOfByte? v with
  | some p => s.setHost { s.host with slptr := p }
  | none => s.rejectWrite

/-- R180. -/
def writeStasel (v : Byte) (s : State) : State :=
  match stationOfByte? v with
  | some n => s.setHost { s.host with stasel := n }
  | none => s.rejectWrite

/-- R182. -/
def writeFsel (v : Byte) (s : State) : State :=
  match filterOfByte? v with
  | some n => s.setHost { s.host with fsel := n }
  | none => s.rejectWrite

/-- R171: CMDARG takes every value. -/
def writeCmdarg (v : Byte) (s : State) : State := s.setHost { s.host with cmdarg := v }

/-- R62, R63, R180: STCFG of the selected station, refused whole or taken whole. -/
def writeStcfg (v : Byte) (s : State) : State :=
  match stcfg? v with
  | some (c, m) => s.setStation s.host.stasel ((s.station s.host.stasel).configure c m)
  | none => s.rejectWrite

/-- R133: a field of the selected filter entry. -/
def writeFilter (f : FilterField) (v : Byte) (s : State) : State :=
  match (s.notes.filters[s.host.fsel]).writeField? f v with
  | some e => s.setNotes { s.notes with filters := s.notes.filters.set s.host.fsel e }
  | none => s.rejectWrite

/-- R169, section 10.2: a write at any address.  An address that no line below names holds a read-only register,
whose write is ignored with WREJ set. -/
def writeRegister (a : BitVec 6) (v : Byte) (s : State) : State :=
  let n := a.toNat
  match configRegisterAt? n, slotFieldAt? n, filterFieldAt? n with
  | some r, _, _ => writeConfig r v s
  | none, some f, _ => writeSlotField f v s
  | none, none, some f => writeFilter f v s
  | none, none, none =>
    if n = 0x00 then writeCmd v s
    else if n = 0x01 then writeCmdarg v s
    else if n = 0x02 then writeLinkstat v s
    else if n = 0x03 then writeIstat v s
    else if n = 0x04 then writeIenab v s
    else if n = 0x11 then writeNthresh v s
    else if n = 0x12 then writeFdefault v s
    else if n = 0x20 then writeSlotsel v s
    else if n = 0x27 then writeSlptr v s
    else if n = 0x28 then writeSlreq v s
    else if n = 0x31 then writeStasel v s
    else if n = 0x33 then writeStcfg v s
    else if n = 0x39 then writeFsel v s
    else s.rejectWrite

/-! ### Reads of the registers -/

/-- R137, R181: the head entry's fields, 0 for an empty queue. -/
def headByte (s : State) (f : Notification → Byte) : Byte :=
  match s.notes.queue with
  | n :: _ => f n
  | [] => 0

/-- R180: the fields of the selected station, at addresses 0x32 to 0x38.  R40 says the host reads every field through this
window, and section 10.2 and R180 give the next toggle no register: it is shown nowhere (log 33, the model's choice). -/
def readStation (st : Station) (n : Nat) : Byte :=
  if n = 0x32 then st.state.code
  else if n = 0x33 then 0#5 ++ st.mode.bit ++ st.cls.code
  else if n = 0x34 then BitVec.ofNat 2 st.missCount ++ BitVec.ofNat 6 st.faultCounter
  else if n = 0x35 then
    0#4 ++ BitVec.ofBool st.ackPending ++ BitVec.ofBool st.latch ++ BitVec.ofBool st.disablePending ++
      BitVec.ofBool st.resync
  else if n = 0x36 then st.attnCode
  else if n = 0x37 then st.stationType
  else st.lastStatus

/-- R178: the fields of the selected slot, at addresses 0x21 to 0x30 other than SLPTR. -/
def readSlot (sl : Slot) (ptr : Fin 32) (n : Nat) : Byte :=
  if n = 0x21 then sl.outcome.code ++ 0#1 ++ sl.state.code
  else if n = 0x22 then 0#3 ++ sl.station
  else if n = 0x23 then sl.kind.code
  else if n = 0x24 then BitVec.ofBool sl.ordered ++ 0#3 ++ sl.priority
  else if n = 0x25 then sl.code
  else if n = 0x26 then BitVec.ofNat 8 sl.reqLen
  else if n = 0x28 then sl.replyBytes[ptr]
  else if n = 0x29 then sl.reason
  else if n = 0x2A then BitVec.ofNat 6 sl.replyLen ++ sl.replyKind.code
  else if n = 0x2B then sl.attempts
  else if n = 0x2C then 0#1 ++ BitVec.ofNat 3 sl.failCount ++ BitVec.ofNat 4 sl.busyCount
  else stampByte sl.finishTime (n - 0x2D)

/-- R182: the fields of the selected filter entry, at addresses 0x3A to 0x3F. -/
def readFilter (e : FilterEntry) (n : Nat) : Byte :=
  if n = 0x3A then 0#6 ++ e.action.bit ++ BitVec.ofBool e.active
  else if n = 0x3B then 0#1 ++ e.kinds
  else if n = 0x3C then stationByte e.stationLow
  else if n = 0x3D then stationByte e.stationHigh
  else if n = 0x3E then e.codeLow
  else e.codeHigh

/-- R137, R181: the notification head group, at addresses 0x17 to 0x1F. -/
def readHead (s : State) (n : Nat) : Byte :=
  if n = 0x17 then BitVec.ofNat 8 s.notes.queue.length
  else if n = 0x18 then headByte s (fun e => e.kind.code)
  else if n = 0x19 then headByte s (fun e => stationByte e.station)
  else if n = 0x1A then headByte s (fun e => e.code)
  else if n = 0x1F then s.notes.nqovr
  else headByte s (fun e => stampByte e.time (n - 0x1B))

/-- R169, section 10.2: the value of the register at an address, as the state stands, which a read taken there
returns (readTaken, R168).  A read of TIME0 returns the
counter's byte 0, which is byte 0 of the snapshot that the read takes (R145). -/
def readRegister (a : BitVec 6) (s : State) : Byte :=
  let n := a.toNat
  match configRegisterAt? n with
  | some r => s.link.config.get r
  | none =>
    if n = 0x00 then s.host.cmdres.code
    else if n = 0x01 then s.host.cmdarg
    else if n = 0x02 then s.linkstat
    else if n = 0x03 then s.istat
    else if n = 0x04 then 0#4 ++ s.host.ienab
    else if n = 0x05 then s.slotdone
    else if n = 0x11 then s.notes.nthresh
    else if n = 0x12 then 0#7 ++ s.notes.fdefault.bit
    else if n = 0x13 then stampByte s.time.counter 0
    else if n < 0x17 then stampByte s.time.snapshot (n - 0x13)
    else if n < 0x20 then readHead s n
    else if n = 0x20 then BitVec.ofNat 8 s.host.slotsel.val
    else if n = 0x27 then BitVec.ofNat 8 s.host.slptr.val
    else if n < 0x31 then readSlot (s.slot s.host.slotsel) s.host.slptr n
    else if n = 0x31 then stationByte s.host.stasel
    else if n < 0x39 then readStation (s.station s.host.stasel) n
    else if n = 0x39 then BitVec.ofNat 8 s.host.fsel.val
    else readFilter (s.notes.filters[s.host.fsel]) n

/-- R168: the part drives the byte read onto D0-D7 until it is released (log 5). -/
def State.drive (s : State) (v : Byte) : State := s.setHost { s.host with lastRead := some v }

/-- R145: TIME0 is read. -/
def readTime0 (s : State) : State := (takeSnapshot s).drive (readRegister 0x13 s)

/-- R179: SLRPLY is read, and SLPTR advances. -/
def readSlrply (s : State) : State := (s.drive (readRegister 0x28 s)).advancePointer

/-! ### The host bus (R168) -/

/-- R170: a read taken drives its register's value, and at TIME0 and SLRPLY has its side effect. -/
def readAccess (a : BitVec 6) (s : State) : State :=
  if a = 0x13 then readTime0 s else if a = 0x28 then readSlrply s else s.drive (readRegister a s)

/-- R168: /CS low, and of /RD and /WR only /RD low. -/
def Strobes.reads (p : Strobes) : Bool := !p.cs && !p.rd && p.wr

/-- R168: /CS low, and of /RD and /WR only /WR low. -/
def Strobes.writes (p : Strobes) : Bool := !p.cs && p.rd && !p.wr

/-- R168, R184: a read is taken at the instant the later of /CS and /RD goes low. -/
def State.readTaken (s : State) (before after : Strobes) : Bool :=
  !s.inReset && after.reads && (before.cs || before.rd)

/-- R168, R184: a write is taken at the instant the earlier of /WR and /CS goes high.  A write strobe within which /RD
has been low and is high again is still taken there: log 18, the model's choice. -/
def State.writeTaken (s : State) (before after : Strobes) : Bool :=
  !s.inReset && before.writes && (after.cs || after.wr)

/-- R168: the part releases D0-D7. -/
def State.releaseData (s : State) : State := s.setHost { s.host with lastRead := none }

/-- R168: the strobes go from `before` to `after` with A0-A5 at `a` and the host's D0-D7 at `v`: a read or a write is
taken, or the byte of a read is released, or nothing happens.  The rows of the table are the accesses taken (log 18).
The model's choices: where a write ends and a read would begin in one change, which R168 says never fall together, the
write is taken and the read is not (log 18); /WR low during a read releases the byte for good, so that nothing is driven
when /WR goes high again with /CS and /RD still low (log 5). -/
def busEvent (before after : Strobes) (a : BitVec 6) (v : Byte) (s : State) : State :=
  if s.writeTaken before after then writeRegister a v s
  else if s.readTaken before after then readAccess a s
  else if before.reads && !after.reads then s.releaseData
  else s

/-- R168, R184: what the part drives onto D0-D7, none while it does not drive them. -/
def State.dataPins (s : State) (p : Strobes) : Option Byte := if !s.inReset && p.reads then s.host.lastRead else none

/-! ### Meanings -/

/-- TIME0_READ. -/
def execTime0Read (s : State) : Result := .next (hostAccess readTime0 s)

/-- SLRPLY_READ. -/
def execSlrplyRead (s : State) : Result := .next (hostAccess readSlrply s)

/-- SLREQ_WRITE. -/
def execSlreqWrite (v : Byte) (s : State) : Result := .next (hostAccess (writeSlreq v) s)

/-- SLOTSEL_WRITE. -/
def execSlotselWrite (v : Byte) (s : State) : Result := .next (hostAccess (writeSlotsel v) s)

/-- SLOT_REQUEST_FIELD_WRITE. -/
def execSlotRequestFieldWrite (f : SlotField) (v : Byte) (s : State) : Result :=
  .next (hostAccess (writeSlotField f v) s)

/-- CLASS_WRITE: the whole STCFG write that sets the class (log 6). -/
def execClassWrite (v : Byte) (s : State) : Result := .next (hostAccess (writeStcfg v) s)

/-- ATTENTION_MODE_WRITE: the whole STCFG write that sets the mode (log 6). -/
def execAttentionModeWrite (v : Byte) (s : State) : Result := .next (hostAccess (writeStcfg v) s)

/-- CLEAR_RLATE: the whole LINKSTAT write (log 7). -/
def execClearRlate (v : Byte) (s : State) : Result := .next (hostAccess (writeLinkstat v) s)

/-- CLEAR_WREJ: the whole LINKSTAT write (log 7). -/
def execClearWrej (v : Byte) (s : State) : Result := .next (hostAccess (writeLinkstat v) s)

/-- CLEAR_OVR: the whole ISTAT write (log 7). -/
def execClearOvr (v : Byte) (s : State) : Result := .next (hostAccess (writeIstat v) s)

/-- CLEAR_LINK: the whole ISTAT write (log 7). -/
def execClearLink (v : Byte) (s : State) : Result := .next (hostAccess (writeIstat v) s)

/-- NTHRESH_WRITE. -/
def execNthreshWrite (v : Byte) (s : State) : Result := .next (hostAccess (writeNthresh v) s)

/-- IENAB_WRITE. -/
def execIenabWrite (v : Byte) (s : State) : Result := .next (hostAccess (writeIenab v) s)

/-- CONFIGURATION_WRITE. -/
def execConfigurationWrite (r : ConfigRegister) (v : Byte) (s : State) : Result :=
  .next (hostAccess (writeConfig r v) s)

/-- FILTER_WRITE. -/
def execFilterWrite (f : FilterField) (v : Byte) (s : State) : Result := .next (hostAccess (writeFilter f v) s)

/-- FDEFAULT_WRITE. -/
def execFdefaultWrite (v : Byte) (s : State) : Result := .next (hostAccess (writeFdefault v) s)

/-- REGISTER_WRITE. -/
def execRegisterWrite (a : BitVec 6) (v : Byte) (s : State) : Result := .next (hostAccess (writeRegister a v) s)

end Sys2Proof.Machine
end

