-- ==== Sys2Proof/Machine/Events.lean ====
section
/-! DEFINITION. The meanings of the rows that are no host access: the line, the timers, the scheduler's choice, the
passage of time, CLK and /RESET. -/

namespace Sys2Proof.Machine

/-! ### /RESET and CLK -/

/-- R1, R39, R184: every block takes its reset values, and /RESET is low.  CLK is an input and the queue of
commands stands outside the part: both are kept (log 16, log 23). -/
def deviceReset (s : State) : State :=
  { State.reset with inReset := true, clkRunning := s.clkRunning, pending := s.pending }

/-- R184: /RESET goes high; the line is idle from then if RXD is high (log 23). -/
def releaseReset (rxdHigh : Bool) (s : State) : State :=
  if s.inReset then
    { s with
      inReset := false
      receiver := { s.receiver with heldLow := !rxdHigh, idleSince := if rxdHigh then some s.clock else none } }
  else s

/-! ### Meanings -/

/-- DEVICE_RESET. -/
def execDeviceReset (s : State) : Result := .next (deviceReset s)

/-- RESET_RELEASED. -/
def execResetReleased (rxdHigh : Bool) (s : State) : Result := .next (releaseReset rxdHigh s)

/-- CLK_STOP (R185). -/
def execClkStop (s : State) : Result := .next { s with clkRunning := false }

/-- CLK_RESTART (R185).  The receiver goes on from the state it held, whatever level RXD has at the restart: a change of
RXD while CLK was stopped is seen only where a row of the line follows: log 35, the model's choice. -/
def execClkRestart (s : State) : Result := .next { s with clkRunning := true }

/-- TIME_COUNTER_TICK. -/
def execTimeCounterTick (s : State) : Result := .next (linkEvent tick s)

/-- BYTE_RECEIVED. -/
def execByteReceived (v : Byte) (stopHigh : Bool) (s : State) : Result :=
  .next (linkEvent (receiveByte v stopHigh) s)

/-- ECHO_LIMIT. -/
def execEchoLimit (s : State) : Result := .next (linkEvent echoLimitPasses s)

/-- RESPONSE_WINDOW_EXPIRY. -/
def execResponseWindowExpiry (s : State) : Result := .next (linkEvent windowExpires s)

/-- REPLY_CUT_OFF. -/
def execReplyCutOff (s : State) : Result := .next (linkEvent replyIsCutOff s)

/-- QUIET_COUNT. -/
def execQuietCount (s : State) : Result := .next (linkEvent quietCountReached s)

/-- QUIET_WAIT_DEADLINE. -/
def execQuietWaitDeadline (s : State) : Result := .next (linkEvent quietDeadlinePasses s)

/-- TURNAROUND_GAP. -/
def execTurnaroundGap (s : State) : Result := .next (linkEvent gapPasses s)

/-- SCHEDULER_CHOICE. -/
def execSchedulerChoice (s : State) : Result := .next (linkEvent schedulerChooses s)

/-- BACKOFF_EXPIRY. -/
def execBackoffExpiry (i : SlotId) (s : State) : Result := .next (linkEvent (backoffExpires i) s)

/-- ROUND_TIMER_EXPIRY. -/
def execRoundTimerExpiry (s : State) : Result := .next (linkEvent roundTimerExpires s)

/-- INTERVAL_TIMER_EXPIRY. -/
def execIntervalTimerExpiry (s : State) : Result := .next (linkEvent intervalExpires s)

/-- START_BIT_EDGE. -/
def execStartBitEdge (s : State) : Result := .next (linkEvent fallingEdge s)

/-- START_BIT_CONFIRMATION. -/
def execStartBitConfirmation (rxdLow : Bool) (s : State) : Result := .next (linkEvent (confirmStartBit rxdLow) s)

/-- RXD_SEEN_HIGH. -/
def execRxdSeenHigh (s : State) : Result := .next (linkEvent seenHigh s)

end Sys2Proof.Machine
end

