-- ==== Sys2Proof/Machine/Dispatch.lean ====
section
/-! DEFINITION. One arm per row of spec/opcode_table.json, each a direct call of the row's meaning. -/

namespace Sys2Proof.Machine

def exec (i : Instr) (s : State) : Host.Outcome State Fault Refusal :=
  match i with
  | .deviceReset => Sys2Proof.Machine.execDeviceReset s
  | .clkStop => Sys2Proof.Machine.execClkStop s
  | .clkRestart => Sys2Proof.Machine.execClkRestart s
  | .start => Sys2Proof.Machine.execStart s
  | .stop => Sys2Proof.Machine.execStop s
  | .hold => Sys2Proof.Machine.execHold s
  | .resume => Sys2Proof.Machine.execResume s
  | .enable => Sys2Proof.Machine.execEnable s
  | .disable => Sys2Proof.Machine.execDisable s
  | .clearattn => Sys2Proof.Machine.execClearattn s
  | .queue => Sys2Proof.Machine.execQueue s
  | .withdraw => Sys2Proof.Machine.execWithdraw s
  | .release => Sys2Proof.Machine.execRelease s
  | .pop => Sys2Proof.Machine.execPop s
  | .unknownCommandCode code => Sys2Proof.Machine.execUnknownCommandCode code s
  | .time0Read => Sys2Proof.Machine.execTime0Read s
  | .slrplyRead => Sys2Proof.Machine.execSlrplyRead s
  | .slreqWrite value => Sys2Proof.Machine.execSlreqWrite value s
  | .slotselWrite value => Sys2Proof.Machine.execSlotselWrite value s
  | .slotRequestFieldWrite field value => Sys2Proof.Machine.execSlotRequestFieldWrite field value s
  | .classWrite value => Sys2Proof.Machine.execClassWrite value s
  | .attentionModeWrite value => Sys2Proof.Machine.execAttentionModeWrite value s
  | .clearRlate value => Sys2Proof.Machine.execClearRlate value s
  | .clearWrej value => Sys2Proof.Machine.execClearWrej value s
  | .clearOvr value => Sys2Proof.Machine.execClearOvr value s
  | .clearLink value => Sys2Proof.Machine.execClearLink value s
  | .nthreshWrite value => Sys2Proof.Machine.execNthreshWrite value s
  | .ienabWrite value => Sys2Proof.Machine.execIenabWrite value s
  | .configurationWrite register value => Sys2Proof.Machine.execConfigurationWrite register value s
  | .filterWrite field value => Sys2Proof.Machine.execFilterWrite field value s
  | .fdefaultWrite value => Sys2Proof.Machine.execFdefaultWrite value s
  | .registerWrite address value => Sys2Proof.Machine.execRegisterWrite address value s
  | .byteReceived value stopHigh => Sys2Proof.Machine.execByteReceived value stopHigh s
  | .echoLimit => Sys2Proof.Machine.execEchoLimit s
  | .responseWindowExpiry => Sys2Proof.Machine.execResponseWindowExpiry s
  | .replyCutOff => Sys2Proof.Machine.execReplyCutOff s
  | .quietCount => Sys2Proof.Machine.execQuietCount s
  | .quietWaitDeadline => Sys2Proof.Machine.execQuietWaitDeadline s
  | .turnaroundGap => Sys2Proof.Machine.execTurnaroundGap s
  | .schedulerChoice => Sys2Proof.Machine.execSchedulerChoice s
  | .backoffExpiry slot => Sys2Proof.Machine.execBackoffExpiry slot s
  | .roundTimerExpiry => Sys2Proof.Machine.execRoundTimerExpiry s
  | .intervalTimerExpiry => Sys2Proof.Machine.execIntervalTimerExpiry s
  | .startBitEdge => Sys2Proof.Machine.execStartBitEdge s
  | .startBitConfirmation rxdLow => Sys2Proof.Machine.execStartBitConfirmation rxdLow s
  | .rxdSeenHigh => Sys2Proof.Machine.execRxdSeenHigh s
  | .timeCounterTick => Sys2Proof.Machine.execTimeCounterTick s
  | .resetReleased rxdHigh => Sys2Proof.Machine.execResetReleased rxdHigh s

end Sys2Proof.Machine
end

