-- ==== Sys2Proof/Safety.lean ====
section
/-! DEFINITION. What the manual promises of every state the part can be in: the bounds of R46, the attention fields
of R114 and R120, the link states of R23 and section 9.1, the service list of R74, R77 and section 4.8, the queue of
R134, the ranges of R165, and the round list of R108. -/

namespace Sys2Proof

/-- The rows that are a host access: a write to a register, or a read with a side effect (R168). -/
def Instr.isHostAccess : Instr → Bool
  | .start | .stop | .hold | .resume | .enable | .disable | .clearattn | .queue | .withdraw | .release | .pop => true
  | .unknownCommandCode _ | .time0Read | .slrplyRead | .slreqWrite _ | .slotselWrite _ => true
  | .slotRequestFieldWrite _ _ | .classWrite _ | .attentionModeWrite _ | .clearRlate _ | .clearWrej _ => true
  | .clearOvr _ | .clearLink _ | .nthreshWrite _ | .ienabWrite _ | .configurationWrite _ _ => true
  | .filterWrite _ _ | .fdefaultWrite _ | .registerWrite _ _ => true
  | .deviceReset | .clkStop | .clkRestart | .resetReleased _ | .byteReceived _ _ | .echoLimit => false
  | .responseWindowExpiry | .replyCutOff | .quietCount | .quietWaitDeadline | .turnaroundGap => false
  | .schedulerChoice | .backoffExpiry _ | .roundTimerExpiry | .intervalTimerExpiry | .startBitEdge => false
  | .startBitConfirmation _ | .rxdSeenHigh | .timeCounterTick => false

/-- The rows of the reset and clock inputs (R184, R185). -/
def Instr.isInput : Instr → Bool
  | .deviceReset | .clkStop | .clkRestart | .resetReleased _ => true
  | .start | .stop | .hold | .resume | .enable | .disable | .clearattn | .queue | .withdraw | .release | .pop => false
  | .unknownCommandCode _ | .time0Read | .slrplyRead | .slreqWrite _ | .slotselWrite _ => false
  | .slotRequestFieldWrite _ _ | .classWrite _ | .attentionModeWrite _ | .clearRlate _ | .clearWrej _ => false
  | .clearOvr _ | .clearLink _ | .nthreshWrite _ | .ienabWrite _ | .configurationWrite _ _ => false
  | .filterWrite _ _ | .fdefaultWrite _ | .registerWrite _ _ | .byteReceived _ _ | .echoLimit => false
  | .responseWindowExpiry | .replyCutOff | .quietCount | .quietWaitDeadline | .turnaroundGap => false
  | .schedulerChoice | .backoffExpiry _ | .roundTimerExpiry | .intervalTimerExpiry | .startBitEdge => false
  | .startBitConfirmation _ | .rxdSeenHigh | .timeCounterTick => false

/-- The rows of the line, of the timers, of the scheduler and of the time counter, which need CLK (R185). -/
def Instr.isLinkEvent (c : Instr) : Bool := !c.isHostAccess && !c.isInput

/-- The rows that write CMD (R171); a REGISTER_WRITE does at address 0x00 (log 8). -/
def Instr.writesCmd : Instr → Bool
  | .start | .stop | .hold | .resume | .enable | .disable | .clearattn | .queue | .withdraw | .release | .pop => true
  | .unknownCommandCode _ => true
  | .registerWrite a _ => a = 0
  | .time0Read | .slrplyRead | .slreqWrite _ | .slotselWrite _ => false
  | .slotRequestFieldWrite _ _ | .classWrite _ | .attentionModeWrite _ | .clearRlate _ | .clearWrej _ => false
  | .clearOvr _ | .clearLink _ | .nthreshWrite _ | .ienabWrite _ | .configurationWrite _ _ => false
  | .filterWrite _ _ | .fdefaultWrite _ => false
  | .deviceReset | .clkStop | .clkRestart | .resetReleased _ | .byteReceived _ _ | .echoLimit => false
  | .responseWindowExpiry | .replyCutOff | .quietCount | .quietWaitDeadline | .turnaroundGap => false
  | .schedulerChoice | .backoffExpiry _ | .roundTimerExpiry | .intervalTimerExpiry | .startBitEdge => false
  | .startBitConfirmation _ | .rxdSeenHigh | .timeCounterTick => false

end Sys2Proof

namespace Sys2Proof.Machine

/-! ### What every reachable state keeps -/

/-- R46: the bounds of a station's counters. -/
def Station.countersBounded (st : Station) : Prop :=
  st.missCount ≤ 3 ∧
    match st.state with
    | .unused | .absent => st.faultCounter = 0 ∧ st.missCount = 0
    | .online => st.faultCounter ≤ 23
    | .degraded => 16 ≤ st.faultCounter ∧ st.faultCounter ≤ 47
    | .isolated => 48 ≤ st.faultCounter ∧ st.faultCounter ≤ 51

/-- R114, R120, R121: the code is 0 whenever the latch is clear; the latch is set only while the station is ONLINE or
DEGRADED; ack-pending only while it is in EDGE mode, its latch clear, and ONLINE or DEGRADED. -/
def Station.attentionOk (st : Station) : Prop :=
  (st.latch = false → st.attnCode = 0) ∧ (st.latch = true → st.served = true) ∧
    (st.ackPending = true → st.mode = .edge ∧ st.latch = false ∧ st.served = true)

/-- R58: what an UNUSED or ABSENT station holds: toggle 0 and resync clear; an UNUSED one has disable-pending clear. -/
def Station.idleFieldsClear (st : Station) : Prop :=
  (st.state = .unused ∨ st.state = .absent → st.nextToggle = false ∧ st.resync = false) ∧
    (st.state = .unused → st.disablePending = false)

/-- What every entry of the station table keeps. -/
def Station.ok (st : Station) : Prop := st.countersBounded ∧ st.attentionOk ∧ st.idleFieldsClear

def State.stationsOk (s : State) : Prop := ∀ n, (s.station n).ok

/-- R61: disable-pending is set only while an exchange with the station is in flight. -/
def State.disablePendingOk (s : State) : Prop :=
  ∀ n, (s.station n).disablePending = true → s.inFlightWith n = true

/-- R23 and the table of section 9.1: exchanges and timers by link state; R148: no mark pending in STOPPED or
FAULTED; R152, R163: the line-error count. -/
def State.linkOk (s : State) : Prop :=
  match s.link.state with
  | .stopped | .faulted =>
    s.engine = none ∧ s.time.pendingMark = false ∧ s.time.interval = none ∧ s.sched.roundList = [] ∧
      s.sched.discovery = [] ∧ s.sched.roundTimer = .stopped ∧ s.link.lineErrors ≤ 8
  | .starting =>
    s.sched.discovery ≠ [] ∧ s.sched.roundList = [] ∧ s.sched.roundTimer = .stopped ∧ s.link.lineErrors < 8
  | .running => s.sched.discovery = [] ∧ s.sched.roundTimer ≠ .stopped ∧ s.link.lineErrors < 8
  | .holding =>
    s.engine.isSome = true ∧ s.sched.discovery = [] ∧ s.sched.roundTimer ≠ .stopped ∧ s.link.lineErrors < 8
  | .held => s.engine = none ∧ s.sched.discovery = [] ∧ s.sched.roundTimer ≠ .stopped ∧ s.link.lineErrors < 8
  | .stopping => s.engine.isSome = true ∧ s.time.interval = none ∧ s.link.lineErrors < 8

/-- R94, R101: the burst counter does not pass BURST while the link runs. -/
def State.burstOk (s : State) : Prop :=
  s.link.state ≠ .stopped → s.sched.burstCounter ≤ s.link.config.burst.toNat

/-- R41: the target of an exchange in flight is in the state the exchange is for. -/
def State.targetAgrees (s : State) : Job → Prop
  | .probe .discovery n | .probe .absentStation n => (s.station n).state = .absent
  | .probe .recovery n => (s.station n).state = .isolated
  | .probe .resync n | .poll n | .attnAck n => (s.station n).served = true
  | .request _ _ n _ => (s.station n).served = true
  | .timeMark => True

/-- R77: the slot is the one whose request exchange is in flight. -/
def State.requestInFlight (s : State) (i : SlotId) : Prop :=
  match s.engine with
  | some e =>
    match e.job with
    | .request j _ n _ => j = i ∧ (s.slot i).station = address n
    | .probe _ _ | .poll _ | .attnAck _ | .timeMark => False
  | none => False

/-- R23, R41, R109: the exchange in flight and the lists agree. -/
def State.engineOk (s : State) : Prop :=
  match s.engine with
  | none => True
  | some e =>
    s.targetAgrees e.job ∧
      match e.job with
      | .probe .discovery n => s.sched.discovery.head? = some n
      | .probe .absentStation n => s.sched.roundList.head? = some ⟨n, .probe⟩
      | .probe .recovery n => s.sched.roundList.head? = some ⟨n, .recoveryProbe⟩
      | .poll n => s.sched.roundList.head? = some ⟨n, .poll⟩
      | .request i _ _ _ => (s.slot i).state = .active ∧ s.link.state ≠ .starting
      | .probe .resync _ | .attnAck _ => s.link.state ≠ .starting
      | .timeMark => s.time.pendingMark = true

/-- R67, R74, R82: the service list holds exactly the slots in service, each once; a backoff timer runs exactly in a
WAITING slot. -/
def State.serviceListOk (s : State) : Prop :=
  s.service.Nodup ∧ (∀ i, i ∈ s.service ↔ (s.slot i).inService = true) ∧
    (∀ i, (s.slot i).backoff.isSome = true ↔ (s.slot i).state = .waiting)

/-- R77: a slot is ACTIVE exactly while its request exchange is in flight. -/
def State.activeOk (s : State) : Prop := ∀ i, (s.slot i).state = .active ↔ s.requestInFlight i

def State.serviceOk (s : State) : Prop := s.serviceListOk ∧ s.activeOk

/-- Section 4.8: every slot in service names a station that is ONLINE or DEGRADED. -/
def State.slotsServed (s : State) : Prop :=
  ∀ i, (s.slot i).inService = true → ∃ n, (s.slot i).station = address n ∧ (s.station n).served = true

/-- Section 4.8: every slot in service names a station that takes requests, and STOPPED holds no slot in service. -/
def State.serviceLaw (s : State) : Prop :=
  s.slotsServed ∧ (s.link.state = .stopped → ∀ i, (s.slot i).inService = false)

/-- R134, R136, R140: the queue holds at most 16 entries, NQOVR counts exactly while OVR is set, NTHRESH is 1-16. -/
def State.queueOk (s : State) : Prop :=
  s.notes.queue.length ≤ 16 ∧ (s.notes.ovr = true ↔ s.notes.nqovr ≠ 0) ∧ 1 ≤ s.notes.nthresh.toNat ∧
    s.notes.nthresh.toNat ≤ 16

/-- R165: every register of the timing configuration group is within its parameter's range. -/
def State.configOk (s : State) : Prop := ∀ r, configInRange r (s.link.config.get r) = true

/-- R108, R109, R110: an item of the round list agrees with its station. -/
def State.itemAgrees (s : State) (i : RoundItem) : Prop :=
  match i.kind with
  | .poll => (s.station i.station).served = true
  | .probe => (s.station i.station).state = .absent
  | .recoveryProbe => (s.station i.station).state = .isolated

/-- R108: the round list names distinct stations in ascending address order, none of them UNUSED; R103: the discovery
list holds ABSENT stations in ascending address order. -/
def State.listsOk (s : State) : Prop :=
  (s.sched.roundList.map (fun i => i.station)).Pairwise (fun a b => a < b) ∧
    (∀ i ∈ s.sched.roundList, s.itemAgrees i) ∧
    s.sched.discovery.Pairwise (fun a b => a < b) ∧
    (∀ n ∈ s.sched.discovery, (s.station n).state = .absent)

/-- The time counter and the model's own clock show the same microseconds (R144, log 3). -/
def State.clocksAgree (s : State) : Prop := s.time.counter = BitVec.ofNat 32 s.clock

/-- What every reachable state keeps. -/
structure State.Inv (s : State) : Prop where
  stations : s.stationsOk
  disablePending : s.disablePendingOk
  link : s.linkOk
  burst : s.burstOk
  engine : s.engineOk
  service : s.serviceOk
  law : s.serviceLaw
  queue : s.queueOk
  config : s.configOk
  lists : s.listsOk
  clocks : s.clocksAgree

end Sys2Proof.Machine
end

