-- ==== Sys2Proof/WellFormed.lean ====
section
/-! DEFINITION. Which commands are of their row: a code that names no command for UNKNOWN_COMMAND_CODE, a 1 in
the bit that a clearing row is named for, an address that no other row writes for REGISTER_WRITE.  The other
operands are of a type that holds nothing else.  A command that fails its check is still a host access that the
bus can carry, and Machine.exec gives it that access's effect (log 8). -/

namespace Sys2Proof

/-- The addresses that rows other than REGISTER_WRITE write (section 10.2): CMD, LINKSTAT, ISTAT, IENAB, the
timing configuration group, NTHRESH, FDEFAULT, SLOTSEL, the request fields, SLREQ, STCFG and the filter window. -/
def addressHasOwnRow (a : BitVec 6) : Bool :=
  let n := a.toNat
  n = 0x00 || n = 0x02 || n = 0x03 || n = 0x04 || (0x06 ≤ n && n ≤ 0x12) || n = 0x20 ||
    (0x22 ≤ n && n ≤ 0x26) || n = 0x28 || n = 0x33 || 0x3A ≤ n

def Instr.wellFormed : Instr → Bool
  | .unknownCommandCode c => (CommandCode.ofByte? c).isNone
  | .clearRlate v => v.getLsbD 6
  | .clearWrej v => v.getLsbD 7
  | .clearOvr v => v.getLsbD 2
  | .clearLink v => v.getLsbD 3
  | .registerWrite a _ => !addressHasOwnRow a
  | .deviceReset | .clkStop | .clkRestart | .start | .stop | .hold | .resume | .enable | .disable => true
  | .clearattn | .queue | .withdraw | .release | .pop | .time0Read | .slrplyRead => true
  | .slreqWrite _ | .slotselWrite _ | .slotRequestFieldWrite _ _ | .classWrite _ => true
  | .attentionModeWrite _ | .nthreshWrite _ | .ienabWrite _ | .configurationWrite _ _ => true
  | .filterWrite _ _ | .fdefaultWrite _ | .byteReceived _ _ | .echoLimit => true
  | .responseWindowExpiry | .replyCutOff | .quietCount | .quietWaitDeadline | .turnaroundGap => true
  | .schedulerChoice | .backoffExpiry _ | .roundTimerExpiry | .intervalTimerExpiry => true
  | .startBitEdge | .startBitConfirmation _ | .rxdSeenHigh | .timeCounterTick | .resetReleased _ => true

end Sys2Proof
end

