-- ==== Sys2Proof/Certificates/Slice0/Obligations.lean ====
section
/-! DEFINITION. The statements for the provers, chapter by chapter: what every command does, what a report does, and
what every step keeps.  A statement that gives the state after a command as a record update of the state before it
says with it that every field it does not name is unchanged. -/

section
open Sys2Proof Sys2Proof.Machine

/-! ### The step, /RESET, CLK and time -/

/-- The step runs the command at the front of the queue on the state with the queue's rest; on an empty queue the
part idles.  The queue is the model's (log 1, log 17). -/
def Obligations.StepRunsFrontCommand : Prop :=
  (∀ (c : Instr) (rest : List Instr) (s : State),
    step { s with pending := c :: rest } = exec c { s with pending := rest }) ∧
  ∀ s : State, s.pending = [] → step s = .next s

/-- No command of the table stops the part, and none of them touches the queue of commands (log 17). -/
def Obligations.EveryCommandAnswersNextAndKeepsQueue : Prop :=
  ∀ (c : Instr) (s : State), ∃ t, exec c s = .next t ∧ t.pending = s.pending

/-- R184: while /RESET is low the part takes no host access, and nothing of the line or the timers happens (log 16);
the inputs CLK and /RESET are all that still act. -/
def Obligations.NothingActsWhileResetIsLow : Prop :=
  ∀ (c : Instr) (s : State), s.inReset = true → c.isInput = false → exec c s = .next s

/-- R185: CLK stops and runs again without any other change; while it is stopped no event of the line, of the timers
or of the scheduler has an effect (log 16).  That a level of RXD which changed meanwhile is not seen at the restart is
the model's choice (log 35).
R144: the time counter rises by 1 every microsecond and wraps; the model's clock goes with it (log 3). -/
def Obligations.ClockInputAndMicrosecondTick : Prop :=
  ((∀ s : State, exec .clkStop s = .next { s with clkRunning := false }) ∧
   (∀ s : State, exec .clkRestart s = .next { s with clkRunning := true }) ∧
   ∀ (c : Instr) (s : State), s.clkRunning = false → c.isLinkEvent = true → exec c s = .next s) ∧
  ∀ s : State, s.inReset = false → s.clkRunning = true →
    exec .timeCounterTick s =
      .next { s with time := { s.time with counter := s.time.counter + 1 }, clock := s.clock + 1 }

/-- Device reset from any state: every block at its reset values (R40, R66, R94, R130, R143, R151, R152, R184), no
exchange in flight (R39), the pins at rest (R1).  That the CLK input and the queue are kept is the model's (log 23);
so are the instants of the receiver and the clock (log 24).
What the 64 addresses read in the state after reset: the map of section 10.2 at the owning blocks' values. -/
def Obligations.DeviceResetValues : Prop :=
  (∀ s : State, ∃ t, exec .deviceReset s = .next t ∧
     t.inReset = true ∧ t.clkRunning = s.clkRunning ∧ t.pending = s.pending ∧ t.clock = 0 ∧
     t.host.cmdarg = 0 ∧ t.host.cmdres = .ok ∧ t.host.slotsel = 0 ∧ t.host.slptr = 0 ∧ stationByte t.host.stasel = 1 ∧
     t.host.fsel = 0 ∧ t.host.ienab = 0 ∧ t.host.lastRead = none ∧
     t.link.state = .stopped ∧ t.link.lineErrors = 0 ∧ t.link.link = false ∧ t.link.wrej = false ∧
     t.link.config =
       { rate := 1, rwin := 50, burst := 4, retry := 2, busylim := 3, backoff := 10, round := 20, slowdiv := 8,
         probediv := 16, tmarkl := 0, tmarkh := 0 } ∧
     t.sched =
       { roundList := [], roundTimer := .stopped, roundCounter := 0, burstCounter := 0, discovery := [],
         rlate := false } ∧
     t.engine = none ∧ t.txen = false ∧ t.txd = true ∧
     t.receiver.edge = none ∧ t.receiver.assembling = none ∧ t.receiver.gapPassed = false ∧
     (∀ n, t.station n =
       { state := .unused, cls := .fast, mode := .level, faultCounter := 0, missCount := 0, nextToggle := false,
         resync := false, disablePending := false, latch := false, attnCode := 0, ackPending := false,
         stationType := 0, lastStatus := 0 }) ∧
     (∀ i, t.slot i =
       { state := .free, station := 0, kind := .fetch, code := 0, priority := 0, ordered := false, reqLen := 0,
         reqBytes := Vector.replicate 32 0, outcome := .none, reason := 0, replyKind := .none, replyLen := 0,
         replyBytes := Vector.replicate 32 0, attempts := 0, busyCount := 0, failCount := 0, finishTime := 0,
         backoff := none }) ∧
     t.service = [] ∧ t.slotdone = 0 ∧
     (∀ f : FilterId, t.notes.filters[f] =
       { active := false, action := .accept, kinds := 0, stationLow := 0, stationHigh := 30, codeLow := 0,
         codeHigh := 255 }) ∧
     t.notes.fdefault = .accept ∧ t.notes.queue = [] ∧ t.notes.nqovr = 0 ∧ t.notes.ovr = false ∧
     t.notes.nthresh = 1 ∧
     t.time.counter = 0 ∧ t.time.snapshot = 0 ∧ t.time.interval = none ∧ t.time.pendingMark = false ∧
     t.istat = 0 ∧ t.intAsserted = false) ∧
  (List.range 64).map (fun n => readRegister (BitVec.ofNat 6 n) State.reset) =
    [0, 0, 0, 0, 0, 0, 1, 50] ++ [4, 2, 3, 10, 20, 8, 16, 0] ++ [0, 1, 0, 0, 0, 0, 0, 0] ++
    [0, 0, 0, 0, 0, 0, 0, 0] ++ [0, 0, 0, 0, 0, 0, 0, 0] ++ [0, 0, 0, 0, 0, 0, 0, 0] ++
    [0, 1, 0, 0, 0, 0, 0, 0] ++ [0, 0, 0, 0, 1, 31, 0, 255]

/-- R184: /RESET goes high.  The receiver then finds the line idle or held low by the level of RXD, which is an
operand of the row (log 23); a release with /RESET high already changes nothing (log 2). -/
def Obligations.ResetReleaseStartsThePart : Prop :=
  ∀ (rxdHigh : Bool) (s : State),
    (s.inReset = true →
      exec (.resetReleased rxdHigh) s =
        .next { s with
          inReset := false
          receiver :=
            { s.receiver with heldLow := !rxdHigh, idleSince := if rxdHigh then some s.clock else none } }) ∧
    (s.inReset = false → exec (.resetReleased rxdHigh) s = .next s)

/-! ### Link commands -/

/-- R153: the results of START, HOLD, RESUME and STOP in each link state, whatever CMDARG holds; a WRONGSTATE leaves
every block as it was; and nothing but a write to CMD, or device reset, changes CMDRES. -/
def Obligations.LinkCommandTable : Prop :=
  (∀ s : State, s.inReset = false → s.link.state = .stopped →
    ∃ t, exec .start s = .next t ∧ t.host = { s.host with cmdres := .ok } ∧
      t.link.state = if ∀ n, (s.station n).state = .unused then .running else .starting) ∧
  (∀ s : State, s.inReset = false → s.link.state = .running →
    ∃ t, exec .hold s = .next t ∧
      (s.engine = none → t.host = { s.host with cmdres := .ok } ∧ t.link.state = .held ∧
        t.link.link = true) ∧
      (s.engine ≠ none → t.host = { s.host with cmdres := .deferred } ∧ t.link.state = .holding)) ∧
  (∀ s : State, s.inReset = false → s.link.state = .holding ∨ s.link.state = .held →
    ∃ t, exec .resume s = .next t ∧ t.host = { s.host with cmdres := .ok } ∧ t.link.state = .running) ∧
  (∀ s : State, s.inReset = false → s.link.state = .starting ∨ s.link.state = .running →
    ∃ t, exec .stop s = .next t ∧
      (s.engine = none → t.host = { s.host with cmdres := .ok } ∧ t.link.state = .stopped ∧
        t.link.link = true) ∧
      (s.engine ≠ none → t.host = { s.host with cmdres := .deferred } ∧ t.link.state = .stopping)) ∧
  (∀ s : State, s.inReset = false → s.link.state = .holding →
    ∃ t, exec .stop s = .next t ∧ t.host = { s.host with cmdres := .deferred } ∧ t.link.state = .stopping) ∧
  (∀ s : State, s.inReset = false → s.link.state = .held ∨ s.link.state = .faulted →
    ∃ t, exec .stop s = .next t ∧ t.host = { s.host with cmdres := .ok } ∧ t.link.state = .stopped ∧
        t.link.link = true) ∧
  (∀ s : State, s.inReset = false →
    (s.link.state ≠ .stopped → exec .start s = .next { s with host := { s.host with cmdres := .wrongState } }) ∧
    (s.link.state ≠ .running → exec .hold s = .next { s with host := { s.host with cmdres := .wrongState } }) ∧
    (s.link.state ≠ .holding → s.link.state ≠ .held →
      exec .resume s = .next { s with host := { s.host with cmdres := .wrongState } }) ∧
    (s.link.state = .stopped ∨ s.link.state = .stopping →
      exec .stop s = .next { s with host := { s.host with cmdres := .wrongState } })) ∧
  ∀ (c : Instr) (s t : State), c.writesCmd = false → c ≠ .deviceReset → exec c s = .next t →
    t.host.cmdres = s.host.cmdres

/-- R154, R64, R102, R103, R147: what START does in STOPPED, and what it leaves. -/
def Obligations.StartBeginsARun : Prop :=
  ∀ s : State, s.inReset = false → s.link.state = .stopped →
    let tmark := 256 * s.link.config.tmarkh.toNat + s.link.config.tmarkl.toNat
    let list := allStations.filter (fun n => (s.station n).state ≠ .unused)
    let begun : State :=
      { s with
        host := { s.host with cmdres := .ok }
        stations :=
          mapVec
            (fun st =>
              if st.state = .unused then st
              else
                { st with
                  state := .absent, faultCounter := 0, missCount := 0, nextToggle := false, resync := false,
                  latch := false, attnCode := 0, ackPending := false })
            s.stations
        sched := { s.sched with roundCounter := 0, burstCounter := 0, discovery := list }
        time :=
          { s.time with
            interval :=
              if tmark = 0 then none else some { expiresAt := s.clock + 1000 * tmark, period := 1000 * tmark } } }
    (list ≠ [] →
      exec .start s = .next { begun with link := { s.link with state := .starting, lineErrors := 0 } }) ∧
    (list = [] →
      exec .start s =
        .next (startRound { begun with link := { s.link with state := .running, lineErrors := 0, link := true } }))

/-- R156 to R158: HOLD, RESUME, and STOP with an exchange in flight. A round that is due also starts at a RESUME in
HOLDING (R107), where R111 reads otherwise: log 27.
R158, R160, R88, R112, R147, R148: STOP with no exchange in flight, from HELD and from FAULTED: the one event of
entering STOPPED, with the slots stamped at the write. -/
def Obligations.HoldResumeAndStop : Prop :=
  ((∀ s : State, s.inReset = false → s.link.state = .running →
     (s.engine = none →
       exec .hold s =
         .next { s with
           host := { s.host with cmdres := .ok }, link := { s.link with state := .held, link := true } }) ∧
     (s.engine ≠ none →
       exec .hold s =
         .next { s with host := { s.host with cmdres := .deferred }, link := { s.link with state := .holding } })) ∧
   (∀ s : State, s.inReset = false → s.link.state = .holding ∨ s.link.state = .held →
     let t : State := { s with host := { s.host with cmdres := .ok }, link := { s.link with state := .running } }
     (s.sched.roundDue = true → exec .resume s = .next (startRound t)) ∧
     (s.sched.roundDue = false → exec .resume s = .next t)) ∧
   ∀ s : State, s.inReset = false →
     ((s.link.state = .starting ∨ s.link.state = .running) ∧ s.engine ≠ none) ∨ s.link.state = .holding →
     exec .stop s =
       .next { s with
         host := { s.host with cmdres := .deferred }
         link := { s.link with state := .stopping }
         time := { s.time with interval := none } }) ∧
  ∀ s : State, s.inReset = false →
    ((s.link.state = .starting ∨ s.link.state = .running) ∧ s.engine = none) ∨ s.link.state = .held ∨
      s.link.state = .faulted →
    exec .stop s =
      .next { s with
        host := { s.host with cmdres := .ok }
        link := { s.link with state := .stopped, link := true }
        sched := { s.sched with roundList := [], discovery := [], roundTimer := .stopped }
        time := { s.time with interval := none, pendingMark := false }
        slots :=
          mapVec
            (fun sl =>
              if sl.state = .queued ∨ sl.state = .waiting then
                { sl with state := .failed, outcome := .stopped, backoff := none, finishTime := s.time.counter }
              else sl)
            s.slots
        service := s.service.filter (fun i => (s.slot i).state ≠ .queued ∧ (s.slot i).state ≠ .waiting) }

/-! ### Station commands -/

/-- R58: ENABLE.
R59: DISABLE with no exchange with the station in flight.  The entry, the lists and the slots change at the
command; then what the removal calls for follows (afterRemoval).
R60: DISABLE while an exchange with the station is in flight, also a second time. -/
def Obligations.EnableAndDisableCommands : Prop :=
  (∀ (s : State) (n : StationId), s.inReset = false → s.host.cmdarg.toNat = n.val + 1 →
     ((s.station n).state = .unused →
       exec .enable s =
         .next { s with
           stations := s.stations.set n { s.station n with state := .absent }
           host := { s.host with cmdres := .ok } }) ∧
     ((s.station n).state ≠ .unused →
       exec .enable s = .next { s with host := { s.host with cmdres := .wrongState } })) ∧
  (∀ (s : State) (n : StationId), s.inReset = false → s.host.cmdarg.toNat = n.val + 1 →
     ((s.station n).state = .unused → exec .disable s = .next { s with host := { s.host with cmdres := .ok } }) ∧
     ((s.station n).state ≠ .unused → s.inFlightWith n = false →
       exec .disable s =
         .next (afterRemoval
           { s with
             host := { s.host with cmdres := .ok }
             stations :=
               s.stations.set n
                 { s.station n with
                   state := .unused, faultCounter := 0, missCount := 0, nextToggle := false, resync := false,
                   disablePending := false, latch := false, attnCode := 0, ackPending := false }
             sched :=
               { s.sched with
                 roundList := s.sched.roundList.filter (fun i => i.station ≠ n)
                 discovery := s.sched.discovery.filter (fun m => m ≠ n) }
             slots :=
               mapVec
                 (fun sl =>
                   if sl.station = address n ∧ (sl.state = .queued ∨ sl.state = .waiting) then
                     { sl with
                       state := .failed, outcome := .stationDisabled, backoff := none,
                       finishTime := s.time.counter }
                   else sl)
                 s.slots
             service :=
               s.service.filter
                 (fun i =>
                   ¬((s.slot i).station = address n ∧
                     ((s.slot i).state = .queued ∨ (s.slot i).state = .waiting))) }))) ∧
  ∀ (s : State) (n : StationId) (e : Exchange), s.inReset = false → s.host.cmdarg.toNat = n.val + 1 →
    s.engine = some e → e.job.station? = some n → (s.station n).state ≠ .unused →
    exec .disable s =
      .next { s with
        stations := s.stations.set n { s.station n with disablePending := true }
        host := { s.host with cmdres := .deferred } }

/-- R121: the four rows of CLEARATTN, in every link state, and its argument check. -/
def Obligations.ClearAttentionCommand : Prop :=
  (∀ (s : State) (n : StationId), s.inReset = false → s.host.cmdarg.toNat = n.val + 1 →
    ((s.station n).state = .unused →
      exec .clearattn s = .next { s with host := { s.host with cmdres := .wrongState } }) ∧
    ((s.station n).state ≠ .unused → (s.station n).latch = false →
      exec .clearattn s = .next { s with host := { s.host with cmdres := .ok } }) ∧
    ((s.station n).state ≠ .unused → (s.station n).latch = true → (s.station n).mode = .level →
      exec .clearattn s =
        .next { s with
          stations := s.stations.set n { s.station n with latch := false, attnCode := 0 }
          host := { s.host with cmdres := .ok } }) ∧
    ((s.station n).state ≠ .unused → (s.station n).latch = true → (s.station n).mode = .edge →
      exec .clearattn s =
        .next { s with
          stations := s.stations.set n { s.station n with latch := false, attnCode := 0, ackPending := true }
          host := { s.host with cmdres := .ok } })) ∧
  ∀ s : State, s.inReset = false → s.host.cmdarg = 0 ∨ 31 < s.host.cmdarg.toNat →
    exec .clearattn s = .next { s with host := { s.host with cmdres := .badArg } }

/-! ### Slot commands and the queue of notifications -/

/-- R72: the five checks of QUEUE in their order, and its effect when all of them pass. -/
def Obligations.QueueCommand : Prop :=
  (∀ s : State, s.inReset = false → 8 ≤ s.host.cmdarg.toNat →
    exec .queue s = .next { s with host := { s.host with cmdres := .badArg } }) ∧
  ∀ (s : State) (i : SlotId), s.inReset = false → s.host.cmdarg.toNat = i.val →
    let sl := s.slot i
    let linkTakes := s.link.state ≠ .stopped ∧ s.link.state ≠ .stopping ∧ s.link.state ≠ .faulted
    let fits := sl.station ≠ 0 ∧
      ((sl.kind = .fetch ∧ sl.reqLen ≤ 4) ∨ (sl.kind = .store ∧ 1 ≤ sl.reqLen ∧ sl.reqLen ≤ 32) ∨
        (sl.kind = .command ∧ sl.reqLen ≤ 32))
    let up := ∃ n, sl.station = address n ∧ ((s.station n).state = .online ∨ (s.station n).state = .degraded) ∧
      (s.station n).disablePending = false
    (sl.state ≠ .loaded → exec .queue s = .next { s with host := { s.host with cmdres := .notLoaded } }) ∧
    (sl.state = .loaded → ¬linkTakes →
      exec .queue s = .next { s with host := { s.host with cmdres := .wrongState } }) ∧
    (sl.state = .loaded → linkTakes → ¬fits →
      exec .queue s = .next { s with host := { s.host with cmdres := .badRequest } }) ∧
    (sl.state = .loaded → linkTakes → fits → ¬up →
      exec .queue s = .next { s with host := { s.host with cmdres := .stationDown } }) ∧
    (sl.state = .loaded → linkTakes → fits → up →
      exec .queue s =
        .next { s with
          slots :=
            s.slots.set i
              { sl with
                state := .queued, outcome := .none, reason := 0, replyKind := .none, replyLen := 0,
                replyBytes := Vector.replicate 32 0, attempts := 0, busyCount := 0, failCount := 0,
                finishTime := 0 }
          service := s.service ++ [i]
          host := { s.host with cmdres := .ok } })

/-- R90: the rows of WITHDRAW.
R92: the rows of RELEASE; the slot's SLOTDONE bit is then clear. -/
def Obligations.WithdrawAndReleaseCommands : Prop :=
  ((∀ s : State, s.inReset = false → 8 ≤ s.host.cmdarg.toNat →
     exec .withdraw s = .next { s with host := { s.host with cmdres := .badArg } }) ∧
   ∀ (s : State) (i : SlotId), s.inReset = false → s.host.cmdarg.toNat = i.val →
     ((s.slot i).state = .queued ∨ (s.slot i).state = .waiting →
       exec .withdraw s =
         .next { s with
           slots := s.slots.set i { s.slot i with state := .loaded, backoff := none }
           service := s.service.filter (fun j => j ≠ i)
           host := { s.host with cmdres := .ok } }) ∧
     ((s.slot i).state = .active →
       exec .withdraw s = .next { s with host := { s.host with cmdres := .tooLate } }) ∧
     ((s.slot i).state = .free ∨ (s.slot i).state = .loaded ∨ (s.slot i).state = .done ∨ (s.slot i).state = .failed →
       exec .withdraw s = .next { s with host := { s.host with cmdres := .wrongState } })) ∧
  (∀ s : State, s.inReset = false → 8 ≤ s.host.cmdarg.toNat →
    exec .release s = .next { s with host := { s.host with cmdres := .badArg } }) ∧
  ∀ (s : State) (i : SlotId), s.inReset = false → s.host.cmdarg.toNat = i.val →
    ((s.slot i).state = .loaded ∨ (s.slot i).state = .done ∨ (s.slot i).state = .failed →
      ∃ t, exec .release s = .next t ∧
        t = { s with slots := s.slots.set i Slot.reset, host := { s.host with cmdres := .ok } } ∧
        (t.slot i).state = .free ∧ t.slotdone.getLsbD i = false ∧
        ((∀ j, j ≠ i → (s.slot j).state ≠ .done ∧ (s.slot j).state ≠ .failed) →
          t.slotdone = 0 ∧ t.slotCause = false)) ∧
    ((s.slot i).state = .free ∨ (s.slot i).state = .queued ∨ (s.slot i).state = .waiting ∨
        (s.slot i).state = .active →
      exec .release s = .next { s with host := { s.host with cmdres := .wrongState } })

/-- R138: POP, whatever CMDARG holds and in every link state. -/
def Obligations.PopCommand : Prop :=
  ∀ s : State, s.inReset = false →
    (∀ (n : Notification) (rest : List Notification), s.notes.queue = n :: rest →
      exec .pop s =
        .next { s with notes := { s.notes with queue := rest }, host := { s.host with cmdres := .ok } }) ∧
    (s.notes.queue = [] → exec .pop s = .next { s with host := { s.host with cmdres := .empty } })

/-- R171, R172: a code that names no command gives BADARG, and so does a station command with an argument of 0 or
over 31; nothing beyond CMDRES changes.  A row's byte that does name a command acts as that command (log 8). -/
def Obligations.BadCommandCodesAndArguments : Prop :=
  (∀ (code : Byte) (s : State), s.inReset = false →
    code.toNat ∉ [0x01, 0x02, 0x03, 0x04, 0x10, 0x11, 0x12, 0x20, 0x21, 0x22, 0x30] →
    exec (.unknownCommandCode code) s = .next { s with host := { s.host with cmdres := .badArg } }) ∧
  (∀ s : State, s.inReset = false → s.host.cmdarg = 0 ∨ 31 < s.host.cmdarg.toNat →
    exec .enable s = .next { s with host := { s.host with cmdres := .badArg } } ∧
    exec .disable s = .next { s with host := { s.host with cmdres := .badArg } }) ∧
  ∀ s : State,
    exec (.unknownCommandCode 0x01) s = exec .start s ∧ exec (.unknownCommandCode 0x02) s = exec .stop s ∧
    exec (.unknownCommandCode 0x03) s = exec .hold s ∧ exec (.unknownCommandCode 0x04) s = exec .resume s ∧
    exec (.unknownCommandCode 0x10) s = exec .enable s ∧ exec (.unknownCommandCode 0x11) s = exec .disable s ∧
    exec (.unknownCommandCode 0x12) s = exec .clearattn s ∧ exec (.unknownCommandCode 0x20) s = exec .queue s ∧
    exec (.unknownCommandCode 0x21) s = exec .withdraw s ∧ exec (.unknownCommandCode 0x22) s = exec .release s ∧
    exec (.unknownCommandCode 0x30) s = exec .pop s

/-! ### The register window -/

/-- R145, R170: a read of TIME0 copies the counter into the snapshot and returns byte 0 of the copy; TIME1 to TIME3
then return bytes 1 to 3 of it.  The byte driven is kept as lastRead (log 5).
R70, R177, R179: the data ports and SLOTSEL.  The byte driven is kept as lastRead (log 5). -/
def Obligations.SideEffectReadsAndDataPorts : Prop :=
  (∀ s : State, s.inReset = false →
     ∃ t, exec .time0Read s = .next t ∧
       t = { s with
         time := { s.time with snapshot := s.time.counter }
         host := { s.host with lastRead := some (s.time.counter.extractLsb' 0 8) } } ∧
       readRegister 0x14 t = s.time.counter.extractLsb' 8 8 ∧
       readRegister 0x15 t = s.time.counter.extractLsb' 16 8 ∧
       readRegister 0x16 t = s.time.counter.extractLsb' 24 8) ∧
  (∀ s : State, s.inReset = false →
    exec .slrplyRead s =
      .next { s with
        host :=
          { s.host with
            lastRead := some (s.slot s.host.slotsel).replyBytes[s.host.slptr], slptr := s.host.slptr + 1 } }) ∧
  (∀ (v : Byte) (s : State), s.inReset = false →
    let sl := s.slot s.host.slotsel
    (sl.state = .free ∨ sl.state = .loaded →
      exec (.slreqWrite v) s =
        .next { s with
          slots :=
            s.slots.set s.host.slotsel { sl with state := .loaded, reqBytes := sl.reqBytes.set s.host.slptr v }
          host := { s.host with slptr := s.host.slptr + 1 } }) ∧
    (sl.state ≠ .free → sl.state ≠ .loaded →
      exec (.slreqWrite v) s =
        .next { s with
          link := { s.link with wrej := true }, host := { s.host with slptr := s.host.slptr + 1 } })) ∧
  ∀ (v : Byte) (s : State), s.inReset = false →
    (∀ i : SlotId, v.toNat = i.val →
      exec (.slotselWrite v) s = .next { s with host := { s.host with slotsel := i, slptr := 0 } }) ∧
    (8 ≤ v.toNat → exec (.slotselWrite v) s = .next { s with link := { s.link with wrej := true } })

/-- R68, R69, R178: a write to a request field of the selected slot. -/
def Obligations.RequestFieldWrites : Prop :=
  ∀ (v : Byte) (s : State), s.inReset = false →
    let i := s.host.slotsel
    let sl := s.slot i
    let rejected : State := { s with link := { s.link with wrej := true } }
    let stored (sl' : Slot) : State := { s with slots := s.slots.set i { sl' with state := .loaded } }
    (sl.state = .free ∨ sl.state = .loaded →
      (v.toNat ≤ 31 →
        exec (.slotRequestFieldWrite .station v) s = .next (stored { sl with station := v.extractLsb' 0 5 })) ∧
      (31 < v.toNat → exec (.slotRequestFieldWrite .station v) s = .next rejected) ∧
      (v = 0 → exec (.slotRequestFieldWrite .kind v) s = .next (stored { sl with kind := .fetch })) ∧
      (v = 1 → exec (.slotRequestFieldWrite .kind v) s = .next (stored { sl with kind := .store })) ∧
      (v = 2 → exec (.slotRequestFieldWrite .kind v) s = .next (stored { sl with kind := .command })) ∧
      (2 < v.toNat → exec (.slotRequestFieldWrite .kind v) s = .next rejected) ∧
      exec (.slotRequestFieldWrite .priority v) s =
        .next (stored { sl with priority := v.extractLsb' 0 4, ordered := v.getLsbD 7 }) ∧
      exec (.slotRequestFieldWrite .code v) s = .next (stored { sl with code := v }) ∧
      (v.toNat ≤ 32 →
        exec (.slotRequestFieldWrite .length v) s = .next (stored { sl with reqLen := v.toNat })) ∧
      (32 < v.toNat → exec (.slotRequestFieldWrite .length v) s = .next rejected)) ∧
    (sl.state ≠ .free → sl.state ≠ .loaded →
      ∀ f, exec (.slotRequestFieldWrite f v) s = .next rejected)

/-- R62, R63, R124, R180: a write to STCFG gives the selected entry class and mode at once, or is refused whole; a
change from EDGE to LEVEL drops ack-pending.  Both rows are that one write (log 6). -/
def Obligations.StationConfigurationWrites : Prop :=
  ∀ (v : Byte) (s : State), s.inReset = false →
    let n := s.host.stasel
    let st := s.station n
    (∀ (c : StationClass) (m : AttentionMode), v = 0#5 ++ m.bit ++ c.code →
      let written : State :=
        { s with
          stations :=
            s.stations.set n
              { st with
                cls := c, mode := m,
                ackPending := if st.mode = .edge ∧ m = .level then false else st.ackPending } }
      exec (.classWrite v) s = .next written ∧ exec (.attentionModeWrite v) s = .next written) ∧
    (v.extractLsb' 0 2 = 3 ∨ v.extractLsb' 3 5 ≠ 0 →
      exec (.classWrite v) s = .next { s with link := { s.link with wrej := true } } ∧
      exec (.attentionModeWrite v) s = .next { s with link := { s.link with wrej := true } })

/-- R136, R164, R166, R174, R175: the writes that clear sticky flags, whatever their other bits hold (log 7). -/
def Obligations.StickyFlagClears : Prop :=
  ∀ (v : Byte) (s : State), s.inReset = false →
    let linkstat : State :=
      { s with
        sched := { s.sched with rlate := if v.getLsbD 6 then false else s.sched.rlate }
        link := { s.link with wrej := if v.getLsbD 7 then false else s.link.wrej } }
    let istat : State :=
      { s with
        notes :=
          { s.notes with
            ovr := if v.getLsbD 2 then false else s.notes.ovr
            nqovr := if v.getLsbD 2 then 0 else s.notes.nqovr }
        link := { s.link with link := if v.getLsbD 3 then false else s.link.link } }
    exec (.clearRlate v) s = .next linkstat ∧ exec (.clearWrej v) s = .next linkstat ∧
    exec (.clearOvr v) s = .next istat ∧ exec (.clearLink v) s = .next istat

/-- R140, R176, R182: NTHRESH, IENAB and FDEFAULT, in every link state. -/
def Obligations.ThresholdEnableAndDefaultWrites : Prop :=
  ∀ (v : Byte) (s : State), s.inReset = false →
    let rejected : State := { s with link := { s.link with wrej := true } }
    (1 ≤ v.toNat ∧ v.toNat ≤ 16 →
      exec (.nthreshWrite v) s = .next { s with notes := { s.notes with nthresh := v } }) ∧
    (v.toNat = 0 ∨ 16 < v.toNat → exec (.nthreshWrite v) s = .next rejected) ∧
    (v.toNat < 16 →
      exec (.ienabWrite v) s = .next { s with host := { s.host with ienab := v.extractLsb' 0 4 } }) ∧
    (16 ≤ v.toNat → exec (.ienabWrite v) s = .next rejected) ∧
    (v = 0 → exec (.fdefaultWrite v) s = .next { s with notes := { s.notes with fdefault := .accept } }) ∧
    (v = 1 → exec (.fdefaultWrite v) s = .next { s with notes := { s.notes with fdefault := .drop } }) ∧
    (1 < v.toNat → exec (.fdefaultWrite v) s = .next rejected)

/-- R133, R182: a field of the selected filter entry, in every link state. -/
def Obligations.FilterWrites : Prop :=
  ∀ (v : Byte) (s : State), s.inReset = false →
    let f := s.host.fsel
    let e := s.notes.filters[f]
    let rejected : State := { s with link := { s.link with wrej := true } }
    let stored (e' : FilterEntry) : State := { s with notes := { s.notes with filters := s.notes.filters.set f e' } }
    (v.toNat < 4 →
      exec (.filterWrite .factv v) s =
        .next (stored { e with
          active := v.getLsbD 0, action := if v.getLsbD 1 then .drop else .accept })) ∧
    (4 ≤ v.toNat → exec (.filterWrite .factv v) s = .next rejected) ∧
    (v.toNat < 128 → exec (.filterWrite .fkinds v) s = .next (stored { e with kinds := v.extractLsb' 0 7 })) ∧
    (128 ≤ v.toNat → exec (.filterWrite .fkinds v) s = .next rejected) ∧
    (∀ n : StationId, v.toNat = n.val + 1 →
      exec (.filterWrite .fslo v) s = .next (stored { e with stationLow := n }) ∧
      exec (.filterWrite .fshi v) s = .next (stored { e with stationHigh := n })) ∧
    (v.toNat = 0 ∨ 31 < v.toNat →
      exec (.filterWrite .fslo v) s = .next rejected ∧ exec (.filterWrite .fshi v) s = .next rejected) ∧
    exec (.filterWrite .fclo v) s = .next (stored { e with codeLow := v }) ∧
    exec (.filterWrite .fchi v) s = .next (stored { e with codeHigh := v })

/-- R165, R3: a write to the timing configuration group is stored in STOPPED when its value is in range, and a write
to RATE then also starts the turnaround count again, from the write or from the later instant the line has been idle
from (log 15); any other write is refused. -/
def Obligations.ConfigurationWrites : Prop :=
  ∀ (r : ConfigRegister) (v : Byte) (s : State), s.inReset = false →
    let range : Nat × Nat :=
      match r with
      | .rate => (0, 3)
      | .rwin => (5, 250)
      | .burst => (1, 8)
      | .retry => (0, 7)
      | .busylim => (0, 15)
      | .backoff => (1, 255)
      | .round => (0, 255)
      | .slowdiv => (1, 16)
      | .probediv => (1, 16)
      | .tmarkl => (0, 255)
      | .tmarkh => (0, 255)
    (s.link.state = .stopped → range.1 ≤ v.toNat ∧ v.toNat ≤ range.2 →
      ∃ t, exec (.configurationWrite r v) s = .next t ∧
        t = { s with link := { s.link with config := t.link.config }, receiver := t.receiver } ∧
        t.link.config.get r = v ∧ (∀ r', r' ≠ r → t.link.config.get r' = s.link.config.get r') ∧
        (r ≠ .rate → t.receiver = s.receiver) ∧
        (r = .rate →
          t.receiver =
            { s.receiver with
              gapPassed := false
              idleSince := match s.receiver.idleSince with | some idle => some (max idle s.clock) | none => none })) ∧
    (s.link.state ≠ .stopped ∨ ¬(range.1 ≤ v.toNat ∧ v.toNat ≤ range.2) →
      exec (.configurationWrite r v) s = .next { s with link := { s.link with wrej := true } })

/-- R165: the values of the group change only by an accepted write while the link is STOPPED, or by device reset. -/
def Obligations.ConfigurationChangesOnlyWhileStopped : Prop :=
  ∀ (c : Instr) (s t : State), exec c s = .next t → t.link.config ≠ s.link.config →
    c = .deviceReset ∨
      (s.link.state = .stopped ∧ s.inReset = false ∧
        ((∃ r v, c = .configurationWrite r v ∧ configInRange r v = true) ∨
          ∃ a r v, c = .registerWrite a v ∧ configRegisterAt? a.toNat = some r ∧ configInRange r v = true))

/-- R169, R171, R179, R180, R182, R183: writes of CMDARG and of the selectors, and writes to read-only registers.
Log 8: a write that REGISTER_WRITE carries to an address of another row acts as that row. -/
def Obligations.RegisterWrites : Prop :=
  (∀ (v : Byte) (s : State), s.inReset = false →
     let rejected : State := { s with link := { s.link with wrej := true } }
     exec (.registerWrite 0x01 v) s = .next { s with host := { s.host with cmdarg := v } } ∧
     (∀ p : Fin 32, v.toNat = p.val →
       exec (.registerWrite 0x27 v) s = .next { s with host := { s.host with slptr := p } }) ∧
     (32 ≤ v.toNat → exec (.registerWrite 0x27 v) s = .next rejected) ∧
     (∀ n : StationId, v.toNat = n.val + 1 →
       exec (.registerWrite 0x31 v) s = .next { s with host := { s.host with stasel := n } }) ∧
     (v.toNat = 0 ∨ 31 < v.toNat → exec (.registerWrite 0x31 v) s = .next rejected) ∧
     (∀ f : FilterId, v.toNat = f.val →
       exec (.registerWrite 0x39 v) s = .next { s with host := { s.host with fsel := f } }) ∧
     (8 ≤ v.toNat → exec (.registerWrite 0x39 v) s = .next rejected) ∧
     ∀ a : BitVec 6,
       a.toNat = 0x05 ∨ (0x13 ≤ a.toNat ∧ a.toNat ≤ 0x1F) ∨ a.toNat = 0x21 ∨
         (0x29 ≤ a.toNat ∧ a.toNat ≤ 0x30) ∨ a.toNat = 0x32 ∨ (0x34 ≤ a.toNat ∧ a.toNat ≤ 0x38) →
       exec (.registerWrite a v) s = .next rejected) ∧
  ∀ (v : Byte) (s : State),
    exec (.registerWrite 0x00 v) s = exec (.unknownCommandCode v) s ∧
    exec (.registerWrite 0x02 v) s = exec (.clearWrej v) s ∧
    exec (.registerWrite 0x03 v) s = exec (.clearLink v) s ∧
    exec (.registerWrite 0x04 v) s = exec (.ienabWrite v) s ∧
    exec (.registerWrite 0x06 v) s = exec (.configurationWrite .rate v) s ∧
    exec (.registerWrite 0x07 v) s = exec (.configurationWrite .rwin v) s ∧
    exec (.registerWrite 0x08 v) s = exec (.configurationWrite .burst v) s ∧
    exec (.registerWrite 0x09 v) s = exec (.configurationWrite .retry v) s ∧
    exec (.registerWrite 0x0A v) s = exec (.configurationWrite .busylim v) s ∧
    exec (.registerWrite 0x0B v) s = exec (.configurationWrite .backoff v) s ∧
    exec (.registerWrite 0x0C v) s = exec (.configurationWrite .round v) s ∧
    exec (.registerWrite 0x0D v) s = exec (.configurationWrite .slowdiv v) s ∧
    exec (.registerWrite 0x0E v) s = exec (.configurationWrite .probediv v) s ∧
    exec (.registerWrite 0x0F v) s = exec (.configurationWrite .tmarkl v) s ∧
    exec (.registerWrite 0x10 v) s = exec (.configurationWrite .tmarkh v) s ∧
    exec (.registerWrite 0x11 v) s = exec (.nthreshWrite v) s ∧
    exec (.registerWrite 0x12 v) s = exec (.fdefaultWrite v) s ∧
    exec (.registerWrite 0x20 v) s = exec (.slotselWrite v) s ∧
    exec (.registerWrite 0x22 v) s = exec (.slotRequestFieldWrite .station v) s ∧
    exec (.registerWrite 0x23 v) s = exec (.slotRequestFieldWrite .kind v) s ∧
    exec (.registerWrite 0x24 v) s = exec (.slotRequestFieldWrite .priority v) s ∧
    exec (.registerWrite 0x25 v) s = exec (.slotRequestFieldWrite .code v) s ∧
    exec (.registerWrite 0x26 v) s = exec (.slotRequestFieldWrite .length v) s ∧
    exec (.registerWrite 0x28 v) s = exec (.slreqWrite v) s ∧
    exec (.registerWrite 0x33 v) s = exec (.classWrite v) s ∧
    exec (.registerWrite 0x3A v) s = exec (.filterWrite .factv v) s ∧
    exec (.registerWrite 0x3B v) s = exec (.filterWrite .fkinds v) s ∧
    exec (.registerWrite 0x3C v) s = exec (.filterWrite .fslo v) s ∧
    exec (.registerWrite 0x3D v) s = exec (.filterWrite .fshi v) s ∧
    exec (.registerWrite 0x3E v) s = exec (.filterWrite .fclo v) s ∧
    exec (.registerWrite 0x3F v) s = exec (.filterWrite .fchi v) s

/-- R89, R140, R174 to R176: SLOTDONE, ISTAT, LINKSTAT and /INT follow the state they show (log 19).
R137, R145, R169, R170, R173, R176 to R183: what a read of every other address returns, in every state. -/
def Obligations.StatusInterruptAndWindowReads : Prop :=
  (∀ s : State,
    (∀ i : SlotId, (readRegister 0x05 s).getLsbD i = decide ((s.slot i).state = .done ∨ (s.slot i).state = .failed)) ∧
    ((readRegister 0x03 s).getLsbD 0 = true ↔ readRegister 0x05 s ≠ 0) ∧
    ((readRegister 0x03 s).getLsbD 1 = true ↔ s.notes.nthresh.toNat ≤ s.notes.queue.length) ∧
    (readRegister 0x03 s).getLsbD 2 = s.notes.ovr ∧ (readRegister 0x03 s).getLsbD 3 = s.link.link ∧
    (readRegister 0x03 s).extractLsb' 4 4 = 0 ∧
    (s.intAsserted = true ↔ ∃ k < 4, (readRegister 0x03 s).getLsbD k = true ∧ s.host.ienab.getLsbD k = true) ∧
    (readRegister 0x02 s).extractLsb' 0 3 =
      (match s.link.state with
        | .stopped => 0
        | .starting => 1
        | .running => 2
        | .holding => 3
        | .held => 4
        | .stopping => 5
        | .faulted => 6) ∧
    (readRegister 0x02 s).extractLsb' 3 3 = 0 ∧
    (readRegister 0x02 s).getLsbD 6 = s.sched.rlate ∧ (readRegister 0x02 s).getLsbD 7 = s.link.wrej) ∧
  -- the command registers, the enables and the configuration
  (∀ s : State,
    readRegister 0x00 s =
      (match s.host.cmdres with
        | .ok => 0
        | .deferred => 1
        | .wrongState => 2
        | .badArg => 3
        | .notLoaded => 4
        | .badRequest => 5
        | .stationDown => 6
        | .tooLate => 7
        | .empty => 8) ∧
    readRegister 0x01 s = s.host.cmdarg ∧ readRegister 0x04 s = 0#4 ++ s.host.ienab ∧
    readRegister 0x06 s = s.link.config.rate ∧ readRegister 0x07 s = s.link.config.rwin ∧
    readRegister 0x08 s = s.link.config.burst ∧ readRegister 0x09 s = s.link.config.retry ∧
    readRegister 0x0A s = s.link.config.busylim ∧ readRegister 0x0B s = s.link.config.backoff ∧
    readRegister 0x0C s = s.link.config.round ∧ readRegister 0x0D s = s.link.config.slowdiv ∧
    readRegister 0x0E s = s.link.config.probediv ∧ readRegister 0x0F s = s.link.config.tmarkl ∧
    readRegister 0x10 s = s.link.config.tmarkh ∧ readRegister 0x11 s = s.notes.nthresh ∧
    readRegister 0x12 s = (if s.notes.fdefault = .accept then 0 else 1) ∧
    -- the time counter and the snapshot
    readRegister 0x13 s = s.time.counter.extractLsb' 0 8 ∧ readRegister 0x14 s = s.time.snapshot.extractLsb' 8 8 ∧
    readRegister 0x15 s = s.time.snapshot.extractLsb' 16 8 ∧ readRegister 0x16 s = s.time.snapshot.extractLsb' 24 8 ∧
    -- the selectors and the pointer
    (readRegister 0x20 s).toNat = s.host.slotsel.val ∧ (readRegister 0x27 s).toNat = s.host.slptr.val ∧
    (readRegister 0x31 s).toNat = s.host.stasel.val + 1 ∧ (readRegister 0x39 s).toNat = s.host.fsel.val) ∧
  -- the notification head
  (∀ s : State,
    readRegister 0x17 s = BitVec.ofNat 8 s.notes.queue.length ∧ readRegister 0x1F s = s.notes.nqovr ∧
    (s.notes.queue = [] →
      ∀ a : BitVec 6, 0x18 ≤ a.toNat → a.toNat ≤ 0x1E → readRegister a s = 0) ∧
    ∀ n rest, s.notes.queue = n :: rest →
      readRegister 0x18 s =
        (match n.kind with
          | .attn => 1
          | .found => 2
          | .lost => 3
          | .degraded => 4
          | .healthy => 5
          | .isolated => 6
          | .restored => 7) ∧
      (readRegister 0x19 s).toNat = n.station.val + 1 ∧ readRegister 0x1A s = n.code ∧
      readRegister 0x1B s = n.time.extractLsb' 0 8 ∧ readRegister 0x1C s = n.time.extractLsb' 8 8 ∧
      readRegister 0x1D s = n.time.extractLsb' 16 8 ∧ readRegister 0x1E s = n.time.extractLsb' 24 8) ∧
  -- the slot window
  (∀ s : State,
    let sl := s.slot s.host.slotsel
    readRegister 0x21 s =
      (match sl.outcome with
        | .none => 0#4
        | .ok => 1
        | .refused => 2
        | .noReply => 3
        | .badReply => 4
        | .busyLimit => 5
        | .stationLost => 6
        | .stationIsolated => 7
        | .stationDisabled => 8
        | .stopped => 9) ++ 0#1 ++
      (match sl.state with
        | .free => 0#3
        | .loaded => 1
        | .queued => 2
        | .waiting => 3
        | .active => 4
        | .done => 5
        | .failed => 6) ∧
    readRegister 0x22 s = 0#3 ++ sl.station ∧
    readRegister 0x23 s = (match sl.kind with | .fetch => 0 | .store => 1 | .command => 2) ∧
    readRegister 0x24 s = BitVec.ofBool sl.ordered ++ 0#3 ++ sl.priority ∧ readRegister 0x25 s = sl.code ∧
    readRegister 0x26 s = BitVec.ofNat 8 sl.reqLen ∧ readRegister 0x28 s = sl.replyBytes[s.host.slptr] ∧
    readRegister 0x29 s = sl.reason ∧
    readRegister 0x2A s =
      BitVec.ofNat 6 sl.replyLen ++ (match sl.replyKind with | .none => 0#2 | .data => 1 | .ack => 2) ∧
    readRegister 0x2B s = sl.attempts ∧
    readRegister 0x2C s = 0#1 ++ BitVec.ofNat 3 sl.failCount ++ BitVec.ofNat 4 sl.busyCount ∧
    readRegister 0x2D s = sl.finishTime.extractLsb' 0 8 ∧ readRegister 0x2E s = sl.finishTime.extractLsb' 8 8 ∧
    readRegister 0x2F s = sl.finishTime.extractLsb' 16 8 ∧ readRegister 0x30 s = sl.finishTime.extractLsb' 24 8) ∧
  -- the station window
  (∀ s : State,
    let st := s.station s.host.stasel
    readRegister 0x32 s =
      (match st.state with | .unused => 0 | .absent => 1 | .online => 2 | .degraded => 3 | .isolated => 4) ∧
    readRegister 0x33 s =
      0#5 ++ (match st.mode with | .level => 0#1 | .edge => 1) ++
        (match st.cls with | .fast => 0#2 | .slow => 1 | .off => 2) ∧
    readRegister 0x34 s = BitVec.ofNat 2 st.missCount ++ BitVec.ofNat 6 st.faultCounter ∧
    readRegister 0x35 s =
      0#4 ++ BitVec.ofBool st.ackPending ++ BitVec.ofBool st.latch ++ BitVec.ofBool st.disablePending ++
        BitVec.ofBool st.resync ∧
    readRegister 0x36 s = st.attnCode ∧ readRegister 0x37 s = st.stationType ∧
    readRegister 0x38 s = st.lastStatus) ∧
  -- the filter window
  ∀ s : State,
    let e := s.notes.filters[s.host.fsel]
    readRegister 0x3A s =
      0#6 ++ (match e.action with | .accept => 0#1 | .drop => 1) ++ BitVec.ofBool e.active ∧
    readRegister 0x3B s = 0#1 ++ e.kinds ∧ (readRegister 0x3C s).toNat = e.stationLow.val + 1 ∧
    (readRegister 0x3D s).toNat = e.stationHigh.val + 1 ∧ readRegister 0x3E s = e.codeLow ∧
    readRegister 0x3F s = e.codeHigh

/-- R168, R170, R184: the accesses that the strobes of the host bus make, and what the part drives onto D0-D7.  A read
is taken when the later of /CS and /RD goes low and a write when the earlier of /WR and /CS goes high, each as the whole
command it is; a read drives the value its register had until /RD or /CS goes high; with both strobes low or /RESET low
nothing is taken or driven.  The model's choices in it: the strobes are no part of the state and no row of the table; of
a write that ends and a read that begins in one change of the strobes, which R168 says never fall together, the write is
taken and the read is not (log 18); a write within whose strobe /RD was low for a time is taken (log 18); a
read that /WR low has cut short drives nothing more, though /WR goes high again with /CS and /RD still low (log 5). -/
def Obligations.HostBusAccesses : Prop :=
  let reading (p : Strobes) : Prop := p.cs = false ∧ p.rd = false ∧ p.wr = true
  let writing (p : Strobes) : Prop := p.cs = false ∧ p.rd = true ∧ p.wr = false
  (∀ (before after : Strobes) (a : BitVec 6) (v : Byte) (s : State), s.inReset = false →
     reading after → before.cs = true ∨ before.rd = true → ¬writing before →
     let t := busEvent before after a v s
     t.dataPins after = some (readRegister a s) ∧
     (a = 0x13 → exec .time0Read s = .next t) ∧ (a = 0x28 → exec .slrplyRead s = .next t) ∧
     (a ≠ 0x13 → a ≠ 0x28 →
       t = { s with host := { s.host with lastRead := some (readRegister a s) } })) ∧
  (∀ (before after : Strobes) (a : BitVec 6) (v : Byte) (s : State), s.inReset = false →
     writing before → after.wr = true ∨ after.cs = true →
     exec (.registerWrite a v) s = .next (busEvent before after a v s) ∧
     (busEvent before after a v s).host.lastRead = s.host.lastRead) ∧
  (∀ (before after : Strobes) (a : BitVec 6) (v : Byte) (s : State), s.inReset = false →
     reading before → ¬reading after →
     busEvent before after a v s = { s with host := { s.host with lastRead := none } }) ∧
  (∀ (before after : Strobes) (a : BitVec 6) (v : Byte) (s : State), s.inReset = false →
     (reading before ∧ reading after) ∨ (¬reading before ∧ ¬writing before ∧ ¬reading after) ∨
       (writing before ∧ after.wr = false ∧ after.cs = false) ∨
       (¬reading before ∧ before.cs = false ∧ before.rd = false ∧ reading after) →
     busEvent before after a v s = s) ∧
  (∀ (p : Strobes) (s : State), s.inReset = true ∨ p.cs = true ∨ p.rd = true ∨ p.wr = false →
     s.dataPins p = none) ∧
  ∀ (before after : Strobes) (a : BitVec 6) (v : Byte) (s : State), s.inReset = true → s.host.lastRead = none →
    busEvent before after a v s = s

/-! ### The line -/

/-- R4: a falling edge seen on an idle line may be a start bit.  A byte still being assembled leaves the line idle
again once its stop bit has been sampled (log 11).
R4, R17, R29, R33: half a bit time after the edge a low RXD confirms the start bit: the edge is the byte's start,
the idle count stops, and while the engine waits for the reply it begins the reply; a high RXD discards the edge as
noise.  The model's choices in it: a low that then lasts is found to be no reply only at the end of its byte (log 10,
where R29 has a line that goes low and stays low give no confirmed start bit); an edge seen before a write to RATE is
confirmed with the new bit time (log 15); an edge just before the window opens begins the reply too (log 28); a second
edge while one awaits its confirmation is not seen (log 32). -/
def Obligations.StartBitSearchAndConfirmation : Prop :=
  (∀ s : State, s.inReset = false → s.clkRunning = true →
     let seen : State := { s with receiver := { s.receiver with edge := some s.clock } }
     (s.receiver.edge = none → s.receiver.heldLow = false → s.receiver.assembling = none →
       exec .startBitEdge s = .next seen) ∧
     (∀ a, s.receiver.edge = none → s.receiver.heldLow = false → s.receiver.assembling = some a →
       (a.start + 9 * a.bitTime + a.bitTime / 2 ≤ s.clock → exec .startBitEdge s = .next seen) ∧
       (s.clock < a.start + 9 * a.bitTime + a.bitTime / 2 → exec .startBitEdge s = .next s)) ∧
     (s.receiver.edge ≠ none ∨ s.receiver.heldLow = true → exec .startBitEdge s = .next s)) ∧
  ∀ s : State, s.inReset = false → s.clkRunning = true →
    (∀ t, s.receiver.edge = some t → s.receiver.assembling = none → t + s.bitTime / 2 ≤ s.clock →
      let heard : State :=
        { s with
          receiver :=
            { s.receiver with
              edge := none, assembling := some { start := t, bitTime := s.bitTime }, idleSince := none,
              gapPassed := false } }
      exec (.startBitConfirmation false) s = .next { s with receiver := { s.receiver with edge := none } } ∧
      (∀ e w, s.engine = some e → e.phase = .awaitingReply w → t ≤ w →
        exec (.startBitConfirmation true) s =
          .next { heard with engine := some { e with phase := .receiving t [] } }) ∧
      ((∀ e w, s.engine = some e → e.phase = .awaitingReply w → w < t) →
        exec (.startBitConfirmation true) s = .next heard)) ∧
    (∀ low,
      s.receiver.edge = none ∨ s.receiver.assembling ≠ none ∨
        (∃ t, s.receiver.edge = some t ∧ s.clock < t + s.bitTime / 2) →
      exec (.startBitConfirmation low) s = .next s)

/-- R4, R17: RXD seen high after a byte whose stop bit was low makes the line idle; after 3 byte times of idle line
the turnaround gap has passed.  The model's choices in it: RXD seen high between the sample of a low stop bit and the
byte's end changes nothing (log 29); the gap passes also while an edge awaits its confirmation (log 12). -/
def Obligations.IdleLineAndTurnaroundGap : Prop :=
  ∀ s : State, s.inReset = false → s.clkRunning = true →
    (s.receiver.heldLow = true →
      exec .rxdSeenHigh s =
        .next { s with receiver := { s.receiver with heldLow := false, idleSince := some s.clock } }) ∧
    (s.receiver.heldLow = false → exec .rxdSeenHigh s = .next s) ∧
    (∀ t, s.receiver.idleSince = some t →
      (t + 3 * s.byteTime ≤ s.clock →
        exec .turnaroundGap s = .next { s with receiver := { s.receiver with gapPassed := true } }) ∧
      (s.clock < t + 3 * s.byteTime → exec .turnaroundGap s = .next s)) ∧
    (s.receiver.idleSince = none → exec .turnaroundGap s = .next s)

/-- R4, R17, R29, R33: a byte delivered outside a transmission and outside the reception of a reply reaches the
receiver alone; before its end there is no byte to deliver (log 11).  That an edge seen before the end of a byte whose
stop bit was low is dropped is the model's choice (log 29). -/
def Obligations.ByteOutsideAReply : Prop :=
  ∀ (v : Byte) (stopHigh : Bool) (s : State), s.inReset = false → s.clkRunning = true →
    (∀ a, s.receiver.assembling = some a → a.start + 10 * a.bitTime ≤ s.clock →
      (∀ e, s.engine = some e → (∃ w, e.phase = .awaitingReply w) ∨ ∃ began bytes d, e.phase = .quietWait began bytes d) →
      exec (.byteReceived v stopHigh) s =
        .next { s with
          receiver :=
            { s.receiver with
              edge := if stopHigh then s.receiver.edge else none
              assembling := none
              heldLow := !stopHigh
              lastEnd := a.start + 10 * a.bitTime
              idleSince := if stopHigh then some (a.start + 10 * a.bitTime) else none
              gapPassed := false } }) ∧
    (s.receiver.assembling = none ∨ (∃ a, s.receiver.assembling = some a ∧ s.clock < a.start + 10 * a.bitTime) →
      exec (.byteReceived v stopHigh) s = .next s)

/-- R26 to R29: the byte read back is compared with the byte sent.  The comparison goes on, the wait for a reply
begins, a time mark ends in SENT, or a mismatch ends the exchange in LINEERROR.  The model's choices in it: the byte is
taken at its end (log 11), and an edge seen before that end is dropped after a low stop bit and kept after a high one
(log 29). -/
def Obligations.EchoedByte : Prop :=
  ∀ (v : Byte) (stopHigh : Bool) (s : State) (a : Assembly) (e : Exchange) (k : Nat),
    s.inReset = false → s.clkRunning = true → s.receiver.assembling = some a →
    a.start + 10 * a.bitTime ≤ s.clock → s.engine = some e → e.phase = .transmitting k →
    let byteEnd := a.start + 10 * a.bitTime
    let heard : State :=
      { s with
        receiver :=
          { s.receiver with
            edge := if stopHigh then s.receiver.edge else none, assembling := none, heldLow := !stopHigh,
            lastEnd := byteEnd, idleSince := if stopHigh then some byteEnd else none, gapPassed := false } }
    let report (whole : Bool) (o : ExchangeOutcome) : Report :=
      { job := e.job, frameWhole := whole, outcome := o, reply := none, decidedAt := byteEnd,
        endTime := s.counterAt byteEnd }
    let matched := e.frame.getD k 0 = v ∧ byteEnd ≤ e.startedAt + (k + 1) * s.byteTime + s.bitTime
    (matched → k + 1 < e.frame.length →
      exec (.byteReceived v stopHigh) s =
        .next { heard with engine := some { e with phase := .transmitting (k + 1) } }) ∧
    (matched → e.frame.length ≤ k + 1 → e.job ≠ .timeMark →
      exec (.byteReceived v stopHigh) s =
        .next { heard with
          engine :=
            some { e with
              phase :=
                .awaitingReply
                  (e.startedAt + e.frame.length * s.byteTime + 10 * s.link.config.rwin.toNat) } }) ∧
    (matched → e.frame.length ≤ k + 1 → e.job = .timeMark →
      exec (.byteReceived v stopHigh) s = .next (takeReport (report true .sent) heard)) ∧
    (¬matched → exec (.byteReceived v stopHigh) s = .next (takeReport (report false .lineError) heard))

/-- R23, R30, R32 to R34: a byte of the reply is put behind the bytes before it and judged.  The reply goes on, is bad
and the quiet wait begins with its deadline, the reply start and the bytes received staying in the record, or is valid
and decides the outcome at the byte's end.
R29: a first byte of value 0 whose stop bit is low shows a line that went low and stayed low: no reply has begun and the
window runs on.  The model's choices in it: that this byte is what shows it (log 10), that behind the first byte such a
line gives a reply byte of value 0 (log 34), and that an edge seen before the byte's end is dropped after a low stop bit
and kept after a high one (log 29). -/
def Obligations.ReplyByte : Prop :=
  ∀ (v : Byte) (stopHigh : Bool) (s : State) (a : Assembly) (e : Exchange) (began : Nat) (bytes : List Byte),
    s.inReset = false → s.clkRunning = true → s.receiver.assembling = some a →
    a.start + 10 * a.bitTime ≤ s.clock → s.engine = some e → e.phase = .receiving began bytes →
    let byteEnd := a.start + 10 * a.bitTime
    let heard : State :=
      { s with
        receiver :=
          { s.receiver with
            edge := if stopHigh then s.receiver.edge else none, assembling := none, heldLow := !stopHigh,
            lastEnd := byteEnd, idleSince := if stopHigh then some byteEnd else none, gapPassed := false } }
    let stayedLow := bytes = [] ∧ v = 0 ∧ stopHigh = false
    (stayedLow →
      exec (.byteReceived v stopHigh) s =
        .next { heard with
          engine :=
            some { e with
              phase :=
                .awaitingReply
                  (e.startedAt + e.frame.length * s.byteTime + 10 * s.link.config.rwin.toNat) } }) ∧
    (judge e.job (bytes ++ [v]) = .incomplete →
      exec (.byteReceived v stopHigh) s =
        .next { heard with engine := some { e with phase := .receiving began (bytes ++ [v]) } }) ∧
    (¬stayedLow → judge e.job (bytes ++ [v]) = .bad →
      exec (.byteReceived v stopHigh) s =
        .next { heard with
          engine :=
            some { e with
              phase :=
                .quietWait began (bytes ++ [v])
                  (max (began + 40 * s.byteTime) (byteEnd + 4 * s.byteTime)) } }) ∧
    ∀ p : Reply, judge e.job (bytes ++ [v]) = .valid p →
      exec (.byteReceived v stopHigh) s =
        .next (takeReport
          { job := e.job, frameWhole := true
            outcome := if p.kind = .busy then .busy else if p.kind = .refuse then .refused else .good
            reply := some p, decidedAt := byteEnd, endTime := s.counterAt byteEnd } heard)

/-- R17, R26, R27, R29, R33, R34: the limits that end an exchange without a byte, each once it is reached and never
before; a byte due no later than the echo limit is delivered first.  The model's choices in it: an edge seen in the
window holds its expiry back, and the MISS is decided at the expiry (log 9); the turnaround count that must follow a
frame stopped with none of its bytes read back starts at the stop (log 13); the quiet wait is read from the count that
the turnaround gap is read from, which an unconfirmed edge does not stop (log 12). -/
def Obligations.LimitsThatEndAnExchange : Prop :=
  ∀ (s : State) (e : Exchange), s.inReset = false → s.clkRunning = true → s.engine = some e →
    let report (whole : Bool) (o : ExchangeOutcome) (at_ : Nat) : Report :=
      { job := e.job, frameWhole := whole, outcome := o, reply := none, decidedAt := at_,
        endTime := s.counterAt at_ }
    (∀ k, e.phase = .transmitting k →
      let limit := e.startedAt + (k + 1) * s.byteTime + s.bitTime
      let byteDue := ∃ a, s.receiver.assembling = some a ∧ a.start + 10 * a.bitTime ≤ limit
      (limit ≤ s.clock → ¬byteDue → k ≠ 0 →
        exec .echoLimit s = .next (takeReport (report false .lineError s.clock) s)) ∧
      (limit ≤ s.clock → ¬byteDue → k = 0 →
        exec .echoLimit s =
          .next (takeReport (report false .lineError s.clock)
            { s with
              receiver :=
                { s.receiver with
                  idleSince := match s.receiver.idleSince with | some idle => some (max idle s.clock) | none => none
                  gapPassed := false } })) ∧
      (s.clock < limit ∨ byteDue → exec .echoLimit s = .next s)) ∧
    (∀ w, e.phase = .awaitingReply w →
      (w ≤ s.clock → (∀ t, s.receiver.edge = some t → w < t) →
        exec .responseWindowExpiry s =
          .next (takeReport (report true .miss w)
            { s with
              receiver :=
                { s.receiver with
                  idleSince := match s.receiver.idleSince with | some idle => some (max idle w) | none => none
                  gapPassed := false } })) ∧
      (s.clock < w ∨ (∃ t, s.receiver.edge = some t ∧ t ≤ w) → exec .responseWindowExpiry s = .next s)) ∧
    (∀ began bytes d, e.phase = .quietWait began bytes d →
      (∀ t, s.receiver.idleSince = some t →
        (t + 2 * s.byteTime ≤ s.clock →
          exec .quietCount s = .next (takeReport (report true .badReply s.clock) s)) ∧
        (s.clock < t + 2 * s.byteTime → exec .quietCount s = .next s)) ∧
      (s.receiver.idleSince = none → exec .quietCount s = .next s) ∧
      (d ≤ s.clock → exec .quietWaitDeadline s = .next (takeReport (report true .lineError d) s)) ∧
      (s.clock < d → exec .quietWaitDeadline s = .next s))

/-- R16, R30, R33: a reply is cut off when the gap after its last byte reaches 2 byte times with no byte begun; on a
line idle for 2 byte times BADREPLY is decided at once, otherwise the quiet wait begins. -/
def Obligations.ReplyCutOff : Prop :=
  ∀ (s : State) (e : Exchange) (began : Nat) (bytes : List Byte), s.inReset = false → s.clkRunning = true →
    s.engine = some e → e.phase = .receiving began bytes →
    let gapLimit := s.receiver.lastEnd + 2 * s.byteTime
    let due := bytes ≠ [] ∧ s.receiver.assembling = none ∧ (∀ t, s.receiver.edge = some t → gapLimit < t) ∧
      gapLimit ≤ s.clock
    let quiet := ∃ t, s.receiver.idleSince = some t ∧ t + 2 * s.byteTime ≤ s.clock
    (due → quiet →
      exec .replyCutOff s =
        .next (takeReport
          { job := e.job, frameWhole := true, outcome := .badReply, reply := none, decidedAt := s.clock,
            endTime := s.time.counter } s)) ∧
    (due → ¬quiet →
      exec .replyCutOff s =
        .next { s with
          engine :=
            some { e with
              phase :=
                .quietWait began bytes (max (began + 40 * s.byteTime) (s.clock + 4 * s.byteTime)) } }) ∧
    (¬due → exec .replyCutOff s = .next s)

/-! ### Frames -/

/-- R8: the check starts at 0xFFFF and takes each byte most significant bit first by the polynomial
x^16 + x^12 + x^5 + 1 (0x1021 below its leading term), with no final inversion; it is sent high byte first; run on over
the two check bytes, the calculation leaves a remainder of 0. -/
def Obligations.CheckCalculationAndRemainder : Prop :=
  let enter (crc : BitVec 16) (bit : Bool) : BitVec 16 :=
    if crc.msb = bit then crc <<< 1 else (crc <<< 1) ^^^ 0x1021
  crc16 [] = 0xFFFF ∧
  (∀ (body : List Byte) (b : Byte),
    crc16 (body ++ [b]) = [7, 6, 5, 4, 3, 2, 1, 0].foldl (fun crc k => enter crc (b.getLsbD k)) (crc16 body)) ∧
  (∀ crc : BitVec 16, checkBytes crc = [crc.extractLsb' 8 8, crc.extractLsb' 0 8]) ∧
  ∀ body : List Byte, crc16 (body ++ checkBytes (crc16 body)) = 0

/-- R5, R9, R10: the frames the part sends, byte by byte, and their lengths. -/
def Obligations.CommandFrameBytes : Prop :=
  ∀ s : State,
    let sent (body : List Byte) : List Byte := 0xC5 :: (body ++ checkBytes (crc16 body))
    (∀ (p : ProbePurpose) (n : StationId),
      s.buildFrame (.probe p n) = sent [BitVec.ofNat 8 (8 * (n.val + 1)), 0, 0] ∧
      s.buildFrame (.poll n) = sent [BitVec.ofNat 8 (8 * (n.val + 1) + 1), 0, 0] ∧
      s.buildFrame (.attnAck n) = sent [BitVec.ofNat 8 (8 * (n.val + 1) + 5), 0, 0]) ∧
    s.buildFrame .timeMark =
      sent
        [0x06, 0x04, 0x00, s.time.counter.extractLsb' 24 8, s.time.counter.extractLsb' 16 8,
          s.time.counter.extractLsb' 8 8, s.time.counter.extractLsb' 0 8] ∧
    ∀ (i : SlotId) (k : SlotKind) (n : StationId) (toggle : Bool), (s.slot i).reqLen ≤ 32 →
      let kind := match k with | .fetch => 2 | .store => 3 | .command => 4
      let len := (s.slot i).reqLen
      s.buildFrame (.request i k n toggle) =
        sent
          (BitVec.ofNat 8 (8 * (n.val + 1) + kind) :: BitVec.ofNat 8 ((if toggle then 128 else 0) + len) ::
            (s.slot i).code :: (s.slot i).reqBytes.toList.take len) ∧
      (s.buildFrame (.request i k n toggle)).length = 6 + len

/-- R12, R13, R31: the checks made at the ends of bytes 0, 1 and 2 of a reply.
R8, R30, R31: past them a reply is judged only when its 6 + len bytes are complete, and it is bad then unless its two
check bytes are the check of bytes 1 to 3+len. -/
def Obligations.ReplyHeadAndCheckBytes : Prop :=
  (∀ (j : Job) (b0 b1 b2 : Byte),
    let address := b1.extractLsb' 3 5
    let kind := (b1.extractLsb' 0 3).toNat
    let len := (b2.extractLsb' 0 6).toNat
    let legal : Prop :=
      match j with
      | .probe _ _ => kind = 0
      | .poll _ => kind = 1
      | .request _ .fetch _ _ => kind = 2 ∨ kind = 4 ∨ kind = 5
      | .request _ .store _ _ => kind = 3 ∨ kind = 4 ∨ kind = 5
      | .request _ .command _ _ => kind = 2 ∨ kind = 3 ∨ kind = 4 ∨ kind = 5
      | .attnAck _ => kind = 3
      | .timeMark => False
    let lengthOk := ((kind = 0 ∨ kind = 1 ∨ kind = 5) ∧ len = 1) ∨ ((kind = 3 ∨ kind = 4) ∧ len = 0) ∨
      (kind = 2 ∧ len ≤ 32)
    let toggleOk : Prop :=
      match j with
      | .request _ _ _ sent => b2.getLsbD 7 = sent
      | .probe _ _ | .poll _ | .attnAck _ | .timeMark => True
    (b0 = 0xC5 → judge j [b0] = .incomplete) ∧ (b0 ≠ 0xC5 → judge j [b0] = .bad) ∧
    (address = j.address ∧ legal → judge j [b0, b1] = .incomplete) ∧
    (¬(address = j.address ∧ legal) → judge j [b0, b1] = .bad) ∧
    (lengthOk ∧ toggleOk → judge j [b0, b1, b2] = .incomplete) ∧
    (¬(lengthOk ∧ toggleOk) → judge j [b0, b1, b2] = .bad)) ∧
  ∀ (j : Job) (b0 : Byte) (body : List Byte),
    let len := ((body.getD 1 0).extractLsb' 0 6).toNat
    (3 ≤ body.length → body.length < 5 + len → judge j (b0 :: body) = .incomplete) ∧
    (body.length = 3 + len → ∀ high low, [high, low] ≠ checkBytes (crc16 body) →
      judge j (b0 :: (body ++ [high, low])) = .bad)

/-- R5, R8, R12 to R14, R30 to R32: a reply that a station frames as the manual asks is judged complete and valid,
with every field as the station sent it, and none of its beginnings is judged so. -/
def Obligations.LegalReplyIsJudgedValid : Prop :=
  ∀ (j : Job) (kindBits : BitVec 3) (k : ReplyKind) (toggle attention : Bool) (code : Byte) (payload : List Byte),
    ReplyKind.ofBits? kindBits = some k → j.legalReply k = true → k.lengthFits payload.length = true →
    (match j with
      | .request _ _ _ sent => toggle = sent
      | .probe _ _ | .poll _ | .attnAck _ | .timeMark => True) →
    let body :=
      (j.address ++ kindBits) ::
        (BitVec.ofBool toggle ++ BitVec.ofBool attention ++ BitVec.ofNat 6 payload.length) :: code :: payload
    let frame : List Byte := 0xC5 :: (body ++ checkBytes (crc16 body))
    judge j frame = .valid { kind := k, attention := attention, code := code, payload := payload } ∧
    ∀ m, 1 ≤ m → m < frame.length → judge j (frame.take m) = .incomplete

/-! ### Scheduling -/

/-- R25, R77, R95, R101: a choice on a free line starts the exchange of the job it takes; with no free line or no
job it starts nothing.
R1, R2, R11: the pins through a frame.  TXEN is high for exactly the byte times of the frame, TXD carries its bytes back
to back, each a low start bit, eight data bits from bit 0 and a high stop bit, and both rest once the last stop bit has
ended or no exchange is in flight.  That an exchange which ends early takes TXEN down with it is log 30's in one case. -/
def Obligations.ChoiceStartsExchangeAndDrivesTheLine : Prop :=
  (∀ (s : State) (e : Exchange), s.engine = some e → e.startedAt ≤ s.clock →
    let ends := e.startedAt + e.frame.length * (10 * s.bitTime)
    (s.clock < ends → s.txen = true) ∧
    (ends ≤ s.clock → s.txen = false ∧ s.txd = true) ∧
    ∀ byte bit, byte < e.frame.length → bit < 10 →
      e.startedAt + (10 * byte + bit) * s.bitTime ≤ s.clock →
      s.clock < e.startedAt + (10 * byte + bit + 1) * s.bitTime →
      s.txen = true ∧
      s.txd = (if bit = 0 then false else if bit = 9 then true else (e.frame.getD byte 0).getLsbD (bit - 1))) ∧
  (∀ s : State, s.engine = none → s.txen = false ∧ s.txd = true) ∧
  ∀ s : State, s.inReset = false → s.clkRunning = true →
    (s.engine = none → s.receiver.gapPassed = true → ∀ j, s.availableJob? = some j →
      ∃ t, exec .schedulerChoice s = .next t ∧ t.txen = true ∧
        t = { s with
          engine :=
            some { job := j, frame := s.buildFrame j, startedAt := s.clock, phase := .transmitting 0 }
          slots :=
            match j with
            | .request i _ _ _ => s.slots.set i { s.slot i with state := .active }
            | .probe _ _ | .poll _ | .attnAck _ | .timeMark => s.slots
          sched :=
            { s.sched with
              burstCounter :=
                match j with
                | .request _ _ _ _ =>
                  if s.sched.burstCounter < s.link.config.burst.toNat then s.sched.burstCounter + 1
                  else s.sched.burstCounter
                | .poll _ | .probe .absentStation _ | .probe .recovery _ => 0
                | .probe .discovery _ | .probe .resync _ | .attnAck _ | .timeMark => s.sched.burstCounter } }) ∧
    (s.engine ≠ none ∨ s.receiver.gapPassed = false ∨ s.availableJob? = none →
      exec .schedulerChoice s = .next s)

/-- R95 to R100: which job a choice takes first.
R101, R109: a request or a round item, by the burst rule. -/
def Obligations.ChoicePrecedenceAndBurstRule : Prop :=
  (∀ s : State,
     let served (n : StationId) : Prop := (s.station n).state = .online ∨ (s.station n).state = .degraded
     let resyncWork (n : StationId) : Prop := served n ∧ (s.station n).resync = true
     let ackWork (n : StationId) : Prop := served n ∧ (s.station n).ackPending = true
     (s.link.state ≠ .starting → s.link.state ≠ .running → s.availableJob? = none) ∧
     (s.link.state = .starting ∨ s.link.state = .running → s.time.pendingMark = true →
       s.availableJob? = some .timeMark) ∧
     (s.link.state = .starting → s.time.pendingMark = false →
       (∀ n rest, s.sched.discovery = n :: rest → s.availableJob? = some (.probe .discovery n)) ∧
       (s.sched.discovery = [] → s.availableJob? = none)) ∧
     (s.link.state = .running → s.time.pendingMark = false →
       (∀ n, resyncWork n → (∀ m, resyncWork m → n ≤ m) → s.availableJob? = some (.probe .resync n)) ∧
       ((∀ n, ¬resyncWork n) →
         (∀ n, ackWork n → (∀ m, ackWork m → n ≤ m) → s.availableJob? = some (.attnAck n)) ∧
         ((∀ n, ¬ackWork n) → s.availableJob? = s.burstJob?)))) ∧
  ∀ s : State,
    let itemJob (i : RoundItem) : Job :=
      match i.kind with
      | .poll => .poll i.station
      | .probe => .probe .absentStation i.station
      | .recoveryProbe => .probe .recovery i.station
    let full := s.link.config.burst.toNat ≤ s.sched.burstCounter
    (∀ i rest, s.sched.roundList = i :: rest → full → s.burstJob? = some (itemJob i)) ∧
    (s.sched.roundList = [] ∨ ¬full → ∀ k n, s.chosenSlot? = some k → (s.slot k).station = address n →
      s.burstJob? = some (.request k (s.slot k).kind n (s.station n).nextToggle)) ∧
    (∀ i rest, s.sched.roundList = i :: rest → s.chosenSlot? = none → s.burstJob? = some (itemJob i)) ∧
    (s.sched.roundList = [] → s.chosenSlot? = none → s.burstJob? = none)

/-- R75, R76: the slot chosen is eligible, and among the eligible slots it has the lowest priority value and, of
those, the earliest place in the service list. -/
def Obligations.ChosenSlotIsMostUrgentEligible : Prop :=
  ∀ s : State,
    let eligible (earlier : List SlotId) (i : SlotId) : Prop :=
      (s.slot i).state = .queued ∧ s.link.state = .running ∧
        (∃ n, (s.slot i).station = address n ∧
          ((s.station n).state = .online ∨ (s.station n).state = .degraded) ∧ (s.station n).resync = false ∧
          (s.station n).disablePending = false) ∧
        ((s.slot i).ordered = true → ∀ j ∈ earlier, (s.slot j).station = (s.slot i).station →
          (s.slot j).state ≠ .queued ∧ (s.slot j).state ≠ .waiting)
    (∀ i, s.chosenSlot? = some i → ∃ earlier later, s.service = earlier ++ i :: later ∧ eligible earlier i ∧
      ∀ before j after, s.service = before ++ j :: after → eligible before j →
        (s.slot i).priority < (s.slot j).priority ∨
          ((s.slot i).priority = (s.slot j).priority ∧ earlier.length ≤ before.length)) ∧
    (s.chosenSlot? = none → ∀ earlier i later, s.service = earlier ++ i :: later → ¬eligible earlier i)

/-- R25, R95: no exchange begins but by a choice. -/
def Obligations.ExchangesBeginOnlyAtChoices : Prop :=
  ∀ (c : Instr) (s t : State), c ≠ .schedulerChoice → s.engine = none → exec c s = .next t → t.engine = none

/-- R106 to R108: a round start raises the counter, restarts the timer and builds the list.  The timer counts from the
clock of the step also where a MISS stamped earlier empties the list (log 31, the model's choice). -/
def Obligations.RoundStart : Prop :=
  ∀ s : State,
    let t := startRound s
    let round := (s.sched.roundCounter + 1).toNat
    t = { s with
      sched :=
        { s.sched with
          roundCounter := s.sched.roundCounter + 1, roundTimer := t.sched.roundTimer,
          roundList := t.sched.roundList } } ∧
    (s.link.config.round ≠ 0 → t.sched.roundTimer = .running (s.clock + 1000 * s.link.config.round.toNat)) ∧
    (s.link.config.round = 0 → t.sched.roundList = [] → t.sched.roundTimer = .running (s.clock + 1000)) ∧
    (s.link.config.round = 0 → t.sched.roundList ≠ [] → t.sched.roundTimer = .noExpiry) ∧
    (t.sched.roundList.map (fun i => i.station)).Pairwise (fun a b => a < b) ∧
    ∀ n,
      let served := (s.station n).state = .online ∨ (s.station n).state = .degraded
      ((⟨n, .poll⟩ : RoundItem) ∈ t.sched.roundList ↔
        served ∧ ((s.station n).cls = .fast ∨
          ((s.station n).cls = .slow ∧ round % s.link.config.slowdiv.toNat = 0))) ∧
      ((⟨n, .probe⟩ : RoundItem) ∈ t.sched.roundList ↔
        (s.station n).state = .absent ∧ round % s.link.config.probediv.toNat = 0) ∧
      ((⟨n, .recoveryProbe⟩ : RoundItem) ∈ t.sched.roundList ↔
        (s.station n).state = .isolated ∧ round % s.link.config.probediv.toNat = 0)

/-- R104, R106, R107, R155: what follows when an entry has left a list: the end of discovery, or a round that is
due, or nothing. -/
def Obligations.WhatFollowsARemoval : Prop :=
  ∀ s : State,
    (s.link.state = .starting → s.sched.discovery = [] →
      afterRemoval s = startRound { s with link := { s.link with state := .running, link := true } }) ∧
    (s.link.state = .running → s.sched.roundList = [] →
      s.sched.roundTimer = .expired ∨ s.sched.roundTimer = .noExpiry → afterRemoval s = startRound s) ∧
    (s.link.state = .starting → s.sched.discovery ≠ [] → afterRemoval s = s) ∧
    (s.link.state = .running →
      s.sched.roundList ≠ [] ∨ (s.sched.roundTimer ≠ .expired ∧ s.sched.roundTimer ≠ .noExpiry) →
      afterRemoval s = s) ∧
    (s.link.state ≠ .starting → s.link.state ≠ .running → afterRemoval s = s)

/-- R106, R107, R111: the round timer's expiry, in its time and not before.
R82, R147, R148: the expiries of a backoff timer and of the interval timer, in their time and not before. -/
def Obligations.TimerExpiries : Prop :=
  (∀ s : State, s.inReset = false → s.clkRunning = true →
     (∀ t, s.sched.roundTimer = .running t → t ≤ s.clock →
       (s.sched.roundList ≠ [] →
         exec .roundTimerExpiry s =
           .next { s with sched := { s.sched with roundTimer := .expired, rlate := true } }) ∧
       (s.sched.roundList = [] → s.link.state = .running →
         exec .roundTimerExpiry s =
           .next (startRound { s with sched := { s.sched with roundTimer := .expired } })) ∧
       (s.sched.roundList = [] → s.link.state ≠ .running →
         exec .roundTimerExpiry s = .next { s with sched := { s.sched with roundTimer := .expired } })) ∧
     ((∀ t, s.sched.roundTimer = .running t → s.clock < t) → exec .roundTimerExpiry s = .next s)) ∧
  ∀ s : State, s.inReset = false → s.clkRunning = true →
    (∀ (i : SlotId) (t : Nat), (s.slot i).state = .waiting → (s.slot i).backoff = some t →
      (t ≤ s.clock →
        exec (.backoffExpiry i) s =
          .next { s with slots := s.slots.set i { s.slot i with state := .queued, backoff := none } }) ∧
      (s.clock < t → exec (.backoffExpiry i) s = .next s)) ∧
    (∀ i : SlotId, (s.slot i).state ≠ .waiting ∨ (s.slot i).backoff = none →
      exec (.backoffExpiry i) s = .next s) ∧
    (∀ timer, s.time.interval = some timer →
      (timer.expiresAt ≤ s.clock →
        exec .intervalTimerExpiry s =
          .next { s with
            time :=
              { s.time with
                pendingMark := true
                interval := some { expiresAt := timer.expiresAt + timer.period, period := timer.period } } }) ∧
      (s.clock < timer.expiresAt → exec .intervalTimerExpiry s = .next s)) ∧
    (s.time.interval = none → exec .intervalTimerExpiry s = .next s)

/-! ### Reports -/

/-- R43, R44, R47 to R50, R53, R110, R128: what a report does to the health and the state of a station that is ONLINE
or DEGRADED, the notification it offers, the transition it hands on to the other blocks, and the round item that LOST
and ISOLATED remove.  Nothing but that entry, the notifications and the round list changes. -/
def Obligations.HealthOfAServedStation : Prop :=
  ∀ (r : Report) (s : State) (n : StationId), r.job.station? = some n →
    (s.station n).state = .online ∨ (s.station n).state = .degraded → (s.station n).countersBounded →
    let st := s.station n
    let t := (stationStep r s).1
    let st' := t.station n
    let offered (k : NoteKind) (tr : Transition) : Prop :=
      t.notes = s.notes.offer { kind := k, station := n, code := 0, time := r.endTime } ∧
        (stationStep r s).2 = some tr
    let unchanged : Prop := t.notes = s.notes ∧ st'.state = st.state ∧ (stationStep r s).2 = none
    let itemKept : Prop := t.sched = s.sched
    let itemRemoved : Prop :=
      t.sched = { s.sched with roundList := s.sched.roundList.filter (fun i => i.station ≠ n) }
    let lower := st.faultCounter - 1
    let higher := st.faultCounter + 4
    (r.outcome = .good ∨ r.outcome = .busy ∨ r.outcome = .refused →
      st'.faultCounter = lower ∧ st'.missCount = 0 ∧ itemKept ∧
      (st.state = .degraded ∧ lower < 16 → st'.state = .online ∧ offered .healthy .healthy) ∧
      (¬(st.state = .degraded ∧ lower < 16) → unchanged)) ∧
    (r.outcome = .miss ∧ st.missCount = 3 →
      st'.state = .absent ∧ st'.faultCounter = 0 ∧ st'.missCount = 0 ∧ st'.nextToggle = false ∧
      st'.resync = false ∧ st'.latch = false ∧ st'.attnCode = 0 ∧ st'.ackPending = false ∧
      offered .lost .lost ∧ itemRemoved) ∧
    (r.outcome = .badReply ∨ (r.outcome = .miss ∧ st.missCount < 3) →
      st'.faultCounter = higher ∧ st'.missCount = (if r.outcome = .miss then st.missCount + 1 else 0) ∧
      (st.state = .online ∧ 24 ≤ higher → st'.state = .degraded ∧ offered .degraded .degraded ∧ itemKept) ∧
      (st.state = .degraded ∧ 48 ≤ higher →
        st'.state = .isolated ∧ st'.latch = false ∧ st'.attnCode = 0 ∧ st'.ackPending = false ∧
        offered .isolated .isolated ∧ itemRemoved) ∧
      (¬(st.state = .online ∧ 24 ≤ higher) → ¬(st.state = .degraded ∧ 48 ≤ higher) → unchanged ∧ itemKept)) ∧
    (r.outcome = .lineError ∨ r.outcome = .sent → stationStep r s = (s, none)) ∧
    (∀ m, m ≠ n → t.station m = s.station m) ∧
    t = { s with stations := t.stations, notes := t.notes, sched := t.sched }

/-- R51 to R53, R55, R110: what a report does to a station that is ABSENT or ISOLATED, the transition it hands on to
the other blocks, and the round item that LOST removes.  Nothing but that entry, the notifications and the round list
changes. -/
def Obligations.ProbesOfAbsentAndIsolatedStations : Prop :=
  ∀ (r : Report) (s : State) (n : StationId) (purpose : ProbePurpose), r.job = .probe purpose n →
    let st := s.station n
    let t := (stationStep r s).1
    let st' := t.station n
    let made (k : NoteKind) (c : Byte) (tr : Transition) : Prop :=
      t.notes = s.notes.offer { kind := k, station := n, code := c, time := r.endTime } ∧
        (stationStep r s).2 = some tr
    let noTransition : Prop := t.notes = s.notes ∧ (stationStep r s).2 = none ∧ t.sched = s.sched
    (st.state = .absent →
      (∀ p, r.outcome = .good → r.reply = some p →
        st' = { st with
          state := .online, faultCounter := 0, missCount := 0, nextToggle := false, resync := false,
          stationType := p.payload.getD 0 0 } ∧ made .found (p.payload.getD 0 0) .found ∧ t.sched = s.sched) ∧
      (r.outcome ≠ .good → stationStep r s = (s, none))) ∧
    (st.state = .isolated →
      (∀ p, r.outcome = .good → r.reply = some p →
        st' = { st with
          state := .degraded, faultCounter := 32, missCount := 0, nextToggle := false, resync := false,
          stationType := p.payload.getD 0 0 } ∧ made .restored 0 .restored ∧ t.sched = s.sched) ∧
      (r.outcome = .miss → st.missCount < 3 → st' = { st with missCount := st.missCount + 1 } ∧ noTransition) ∧
      (r.outcome = .miss → 3 ≤ st.missCount →
        st' = { st with
          state := .absent, faultCounter := 0, missCount := 0, nextToggle := false, resync := false
          latch := false, attnCode := 0, ackPending := false } ∧
        made .lost 0 .lost ∧
        t.sched = { s.sched with roundList := s.sched.roundList.filter (fun i => i.station ≠ n) }) ∧
      (r.outcome = .badReply → st' = { st with missCount := 0 } ∧ noTransition) ∧
      (r.outcome = .lineError → stationStep r s = (s, none))) ∧
    (∀ m, m ≠ n → t.station m = s.station m) ∧
    t = { s with stations := t.stations, notes := t.notes, sched := t.sched }

/-- R43, R48, R50, R54, R55, R57, R118, R125: what step 1 of a report leaves in the record of a station that is ONLINE
or DEGRADED: the next toggle, the resync flag, the station type and the last status.  Only the MISS that loses the
station (R50) clears the toggle and the flag otherwise; latch, code and ack-pending stay unless the station is lost or
isolated; class and mode, and a disable that waits, no report of this step touches. -/
def Obligations.RecordsOfAServedStation : Prop :=
  ∀ (r : Report) (s : State) (n : StationId), r.job.station? = some n →
    (s.station n).state = .online ∨ (s.station n).state = .degraded →
    let st := s.station n
    let st' := (stationStep r s).1.station n
    let lost := r.outcome = .miss ∧ 3 ≤ st.missCount
    (lost → st'.nextToggle = false ∧ st'.resync = false) ∧
    (∀ i k sent, r.job = .request i k n sent → ¬lost →
      (r.outcome = .good ∨ r.outcome = .refused → st'.nextToggle = !st.nextToggle) ∧
      (r.outcome ≠ .good → r.outcome ≠ .refused → st'.nextToggle = st.nextToggle)) ∧
    (r.job = .poll n ∨ r.job = .attnAck n → ¬lost → st'.nextToggle = st.nextToggle) ∧
    (∀ purpose, r.job = .probe purpose n →
      (∀ p, r.outcome = .good → r.reply = some p →
        st'.nextToggle = false ∧ st'.resync = false ∧ st'.stationType = p.payload.getD 0 0) ∧
      (r.outcome ≠ .good → ¬lost → st'.nextToggle = st.nextToggle)) ∧
    ((∀ purpose, r.job = .probe purpose n → r.outcome ≠ .good) →
      st'.stationType = st.stationType ∧ (¬lost → st'.resync = st.resync)) ∧
    (∀ p, r.job = .poll n → r.outcome = .good → r.reply = some p → st'.lastStatus = p.payload.getD 0 0) ∧
    (r.job ≠ .poll n ∨ r.outcome ≠ .good → st'.lastStatus = st.lastStatus) ∧
    ((stationStep r s).2 ≠ some .lost → (stationStep r s).2 ≠ some .isolated →
      st'.latch = st.latch ∧ st'.attnCode = st.attnCode ∧ st'.ackPending = st.ackPending) ∧
    st'.cls = st.cls ∧ st'.mode = st.mode ∧ st'.disablePending = st.disablePending

/-- R115 to R117, R123: what the attention unit makes of a valid reply, and of a GOOD ATTNACK.  A MISS, a BADREPLY, a
LINEERROR and a SENT carry no reply: latch, code and ack-pending stay as they are, and so they do for a station that is
neither ONLINE nor DEGRADED. -/
def Obligations.AttentionOfAReport : Prop :=
  (∀ (r : Report) (s : State),
    (r.reply = none ∧
        (r.outcome = .miss ∨ r.outcome = .badReply ∨ r.outcome = .lineError ∨ r.outcome = .sent)) ∨
      (∀ n, r.job.station? = some n → (s.station n).state ≠ .online ∧ (s.station n).state ≠ .degraded) →
    attentionStep r s = s) ∧
  ∀ (r : Report) (s : State) (n : StationId) (p : Reply), r.job.station? = some n → r.reply = some p →
    (s.station n).state = .online ∨ (s.station n).state = .degraded →
    let st := s.station n
    let acked := decide (r.job = .attnAck n ∧ r.outcome = .good)
    let pending := if acked then false else st.ackPending
    let t := attentionStep r s
    (p.attention = true → pending = false → st.latch = false →
      t.station n = { st with latch := true, attnCode := p.code, ackPending := false } ∧
      t.notes = s.notes.offer { kind := .attn, station := n, code := p.code, time := r.endTime }) ∧
    (p.attention = false ∨ pending = true ∨ st.latch = true →
      t.station n = { st with ackPending := pending } ∧ t.notes = s.notes) ∧
    (∀ m, m ≠ n → t.station m = s.station m) ∧
    t = { s with stations := t.stations, notes := t.notes }

/-- R129: a probe that finds a station showing attention offers FOUND first and ATTN second, with one time. -/
def Obligations.FoundIsOfferedBeforeAttention : Prop :=
  ∀ (r : Report) (s : State) (n : StationId) (purpose : ProbePurpose) (p : Reply), r.job = .probe purpose n →
    r.outcome = .good → r.reply = some p → p.attention = true → (s.station n).state = .absent →
    (s.station n).latch = false → (s.station n).ackPending = false →
    (∀ f : FilterId, s.notes.filters[f].active = false) → s.notes.fdefault = .accept →
    s.notes.queue.length ≤ 14 →
    (takeReport r s).notes.queue =
      s.notes.queue ++
        [{ kind := .found, station := n, code := p.payload.getD 0 0, time := r.endTime },
          { kind := .attn, station := n, code := p.code, time := r.endTime }]

/-- R131, R132, R135, R136, R182: the filter's judgement of an offered notification, with the bit that each kind has in
FKINDS, and the queue the notification may join. -/
def Obligations.FilterAndQueueOfAnOffer : Prop :=
  ∀ (u : NotificationUnit) (n : Notification),
    let bit :=
      match n.kind with
      | .attn => 0
      | .found => 1
      | .lost => 2
      | .degraded => 3
      | .healthy => 4
      | .isolated => 5
      | .restored => 6
    let hit (f : FilterId) : Prop :=
      u.filters[f].active = true ∧ u.filters[f].kinds.getLsbD bit = true ∧
        u.filters[f].stationLow ≤ n.station ∧ n.station ≤ u.filters[f].stationHigh ∧
        u.filters[f].codeLow.toNat ≤ n.code.toNat ∧ n.code.toNat ≤ u.filters[f].codeHigh.toNat
    let accepted : Prop :=
      (∃ f, hit f ∧ (∀ g, g < f → ¬hit g) ∧ u.filters[f].action = .accept) ∨
        ((∀ f, ¬hit f) ∧ u.fdefault = .accept)
    (¬accepted → u.offer n = u) ∧
    (accepted → u.queue.length < 16 → u.offer n = { u with queue := u.queue ++ [n] }) ∧
    (accepted → 16 ≤ u.queue.length →
      u.offer n = { u with ovr := true, nqovr := if u.nqovr.toNat < 255 then u.nqovr + 1 else u.nqovr })

/-- R78 to R84, R56, R89: what the report of a request exchange does to its ACTIVE slot, while nothing overrides the
result. -/
def Obligations.ActiveSlotTakesTheOutcome : Prop :=
  ∀ (r : Report) (s : State) (i : SlotId) (k : SlotKind) (n : StationId) (sent : Bool) (tr : Option Transition),
    r.job = .request i k n sent → (s.slot i).state = .active → tr ≠ some .lost → tr ≠ some .isolated →
    (s.station n).disablePending = false → s.link.state ≠ .stopping →
    let sl := s.slot i
    let c := s.link.config
    let counted : Slot :=
      { sl with
        attempts :=
          if r.frameWhole = true then (if sl.attempts.toNat < 255 then sl.attempts + 1 else sl.attempts)
          else sl.attempts }
    let kept (sl' : Slot) : Prop := slotStep r tr s = { s with slots := s.slots.set i sl' }
    let finished (sl' : Slot) : Prop :=
      slotStep r tr s =
        { s with
          slots := s.slots.set i { sl' with finishTime := r.endTime, state := sl'.state }
          service := s.service.filter (fun j => j ≠ i) }
    (∀ p, r.outcome = .good → r.reply = some p →
      finished { counted with
        state := .done, outcome := .ok, replyLen := p.payload.length
        replyKind := if p.kind = .data then .data else if p.kind = .ack then .ack else .none
        replyBytes := Vector.ofFn (fun b => p.payload.getD b.val sl.replyBytes[b]) }) ∧
    (∀ p, r.outcome = .refused → r.reply = some p →
      finished { counted with
        state := .failed, outcome := .refused, reason := p.payload.getD 0 0, backoff := none }) ∧
    (r.outcome = .busy → sl.busyCount < c.busylim.toNat →
      kept { counted with
        state := .waiting, busyCount := sl.busyCount + 1,
        backoff := some (r.decidedAt + 100 * c.backoff.toNat) }) ∧
    (r.outcome = .busy → c.busylim.toNat ≤ sl.busyCount →
      finished { counted with state := .failed, outcome := .busyLimit, backoff := none }) ∧
    (r.outcome = .miss ∨ r.outcome = .badReply → sl.failCount < c.retry.toNat →
      kept { counted with state := .queued, failCount := sl.failCount + 1 }) ∧
    (r.outcome = .miss ∨ r.outcome = .badReply → c.retry.toNat ≤ sl.failCount →
      slotStep r tr s =
        { s with
          slots :=
            s.slots.set i
              { counted with
                state := .failed, backoff := none, finishTime := r.endTime
                outcome := if r.outcome = .miss then .noReply else .badReply }
          service := s.service.filter (fun j => j ≠ i)
          stations := s.stations.set n { s.station n with resync := true } }) ∧
    (r.outcome = .lineError → kept { counted with state := .queued })

/-- R78 to R81, R83, R85, R86, R89: what overrides the result of the ACTIVE slot, with every field of the slot: the
attempts and the counts that R81 and R83 gave it are kept, and so are the request fields. A retry of a slot whose
station is lost or isolated fails with it, and a failure with NOREPLY gives way to STATIONLOST without the resync
flag; under disable-pending, or else under STOPPING, a result of QUEUED or WAITING fails; a result of DONE or FAILED
stands.
R78 (item 4 and the last paragraph), R87: after any report, of a request, a poll, a probe or an ATTNACK, the station's
other QUEUED and WAITING slots fail when step 1 lost or isolated it, and no other slot changes. -/
def Obligations.OverridesAndMassFailure : Prop :=
  (∀ (r : Report) (s : State) (i : SlotId) (k : SlotKind) (n : StationId) (sent : Bool) (tr : Option Transition),
    r.job = .request i k n sent → (s.slot i).state = .active →
    let t := slotStep r tr s
    let sl := s.slot i
    let sl' := t.slot i
    let unsound := r.outcome = .miss ∨ r.outcome = .badReply
    let spent := s.link.config.retry.toNat ≤ (s.slot i).failCount
    let retried := (unsound ∧ ¬spent) ∨ r.outcome = .lineError
    let waits := r.outcome = .busy ∧ (s.slot i).busyCount < s.link.config.busylim.toNat
    let tallied : Slot :=
      { sl with
        attempts :=
          if r.frameWhole = true then (if sl.attempts.toNat < 255 then sl.attempts + 1 else sl.attempts)
          else sl.attempts
        failCount := if unsound ∧ ¬spent then sl.failCount + 1 else sl.failCount
        busyCount := if waits then sl.busyCount + 1 else sl.busyCount }
    let failedWith (o : SlotOutcome) : Prop :=
      sl' = { tallied with state := .failed, outcome := o, backoff := none, finishTime := r.endTime } ∧
        i ∉ t.service
    let gone := tr = some .lost ∨ tr = some .isolated
    (tr = some .lost → r.outcome = .miss → failedWith .stationLost ∧ t.station n = s.station n) ∧
    (tr = some .isolated → unsound → ¬spent → failedWith .stationIsolated ∧ t.station n = s.station n) ∧
    (tr ≠ some .lost → unsound → spent →
      failedWith (if r.outcome = .miss then .noReply else .badReply) ∧
      t.station n = { s.station n with resync := true }) ∧
    (¬gone → retried ∨ waits → (s.station n).disablePending = true → failedWith .stationDisabled) ∧
    (¬gone → retried ∨ waits → (s.station n).disablePending = false → s.link.state = .stopping →
      failedWith .stopped) ∧
    (waits → sl'.busyCount = (s.slot i).busyCount + 1) ∧
    (r.outcome = .busy → ¬waits → failedWith .busyLimit) ∧
    (∀ p, r.outcome = .good → r.reply = some p →
      sl' = { tallied with
        state := .done, outcome := .ok, finishTime := r.endTime, replyLen := p.payload.length
        replyKind := if p.kind = .data then .data else if p.kind = .ack then .ack else .none
        replyBytes := Vector.ofFn (fun b => p.payload.getD b.val sl.replyBytes[b]) } ∧
      i ∉ t.service ∧ t.station n = s.station n) ∧
    (∀ p, r.outcome = .refused → r.reply = some p →
      sl' = { tallied with
        state := .failed, outcome := .refused, reason := p.payload.getD 0 0, backoff := none
        finishTime := r.endTime } ∧
      i ∉ t.service ∧ t.station n = s.station n) ∧
    -- the rest of the state
    (¬unsound ∨ ¬spent → t.station n = s.station n) ∧
    (∀ m, m ≠ n → t.station m = s.station m) ∧ t.service.Sublist s.service ∧
    t = { s with slots := t.slots, service := t.service, stations := t.stations }) ∧
  ∀ (r : Report) (s : State) (n : StationId) (tr : Option Transition) (j : SlotId), r.job.station? = some n →
    (∀ k sent, r.job ≠ .request j k n sent) →
    let hit := (s.slot j).station = address n ∧ ((s.slot j).state = .queued ∨ (s.slot j).state = .waiting)
    (∀ o, (tr = some .lost ∧ o = SlotOutcome.stationLost) ∨ (tr = some .isolated ∧ o = .stationIsolated) → hit →
      (slotStep r tr s).slot j =
        { s.slot j with state := .failed, outcome := o, backoff := none, finishTime := r.endTime } ∧
      j ∉ (slotStep r tr s).service) ∧
    ((tr ≠ some .lost ∧ tr ≠ some .isolated) ∨ ¬hit →
      (slotStep r tr s).slot j = s.slot j ∧ (j ∈ (slotStep r tr s).service ↔ j ∈ s.service)) ∧
    ((∀ i k sent, r.job ≠ .request i k n sent) → (slotStep r tr s).service.Sublist s.service ∧
      slotStep r tr s =
        { s with slots := (slotStep r tr s).slots, service := (slotStep r tr s).service })

/-- R60: a disable that waited is applied by the report of the exchange it waited for, at step 4 of R37, as a DISABLE at
once is applied at the command (R59); a report whose target has none waiting passes over the step.  That the station's
discovery entry leaves already at step 4 is the model's reading, where R105 has it leave at the end of the report
(log 22). -/
def Obligations.DeferredDisableIsApplied : Prop :=
  (∀ (r : Report) (s : State),
    ((∀ n, r.job.station? = some n → (s.station n).disablePending = false) → disableStep r s = s) ∧
    ∀ n, r.job.station? = some n → (s.station n).disablePending = true →
      let hit (i : SlotId) : Prop :=
        (s.slot i).station = address n ∧ ((s.slot i).state = .queued ∨ (s.slot i).state = .waiting)
      let t := disableStep r s
      t = { s with stations := t.stations, sched := t.sched, slots := t.slots, service := t.service } ∧
      (∀ m, m ≠ n → t.station m = s.station m) ∧
      t.sched =
        { s.sched with
          roundList := s.sched.roundList.filter (fun i => i.station ≠ n)
          discovery := s.sched.discovery.filter (fun m => m ≠ n) } ∧
      (∀ i, hit i →
        t.slot i =
          { s.slot i with
            state := .failed, outcome := .stationDisabled, backoff := none, finishTime := r.endTime } ∧
        i ∉ t.service) ∧
      ∀ i, ¬hit i → t.slot i = s.slot i ∧ (i ∈ t.service ↔ i ∈ s.service)) ∧
  ∀ (r : Report) (s : State) (n : StationId), r.job.station? = some n → (s.station n).disablePending = true →
    let st := (takeReport r s).station n
    st.state = .unused ∧ st.faultCounter = 0 ∧ st.missCount = 0 ∧ st.nextToggle = false ∧ st.resync = false ∧
    st.disablePending = false ∧ st.latch = false ∧ st.attnCode = 0 ∧ st.ackPending = false ∧
    st.cls = (s.station n).cls ∧ st.mode = (s.station n).mode ∧
    ∀ i, ((takeReport r s).slot i).station = address n →
      ((takeReport r s).slot i).state ≠ .queued ∧ ((takeReport r s).slot i).state ≠ .waiting

/-- R159 to R161, R163: the line-error count after a report, and the link's move. -/
def Obligations.LinkMovesAfterAReport : Prop :=
  ∀ (r : Report) (s : State),
    let count :=
      if r.outcome = .lineError then s.link.lineErrors + 1
      else if r.outcome = .miss ∨ r.outcome = .badReply then s.link.lineErrors else 0
    let reached := r.outcome = .lineError ∧ 8 ≤ s.link.lineErrors + 1
    let t := linkStep r s
    (s.link.state = .starting ∨ s.link.state = .running → ¬reached →
      t = { s with link := { s.link with lineErrors := count } }) ∧
    (s.link.state = .starting ∨ s.link.state = .running ∨ s.link.state = .holding → reached →
      t = { s with
        link := { s.link with state := .faulted, lineErrors := count, link := true }
        sched := { s.sched with roundList := [], discovery := [], roundTimer := .stopped }
        time := { s.time with interval := none, pendingMark := false } }) ∧
    (s.link.state = .holding → ¬reached →
      t = { s with link := { s.link with state := .held, lineErrors := count, link := true } }) ∧
    (s.link.state = .stopping →
      t = { s with
        link := { s.link with state := .stopped, lineErrors := count, link := true }
        sched := { s.sched with roundList := [], discovery := [], roundTimer := .stopped }
        time := { s.time with interval := none, pendingMark := false }
        slots :=
          mapVec
            (fun sl =>
              if sl.state = .queued ∨ sl.state = .waiting then
                { sl with state := .failed, outcome := .stopped, backoff := none, finishTime := r.endTime }
              else sl)
            s.slots
        service := s.service.filter (fun i => (s.slot i).state ≠ .queued ∧ (s.slot i).state ≠ .waiting) })

/-- R37: a report ends the exchange and is taken by the blocks in steps 1 to 6 in that order, the slot controller with
the transition that the station manager made; then the entry the exchange was for leaves its list, and what a removal
calls for follows (afterRemoval).
R104, R109: the entry that leaves: the station at the head of the discovery list for a discovery probe, the item at the
head of the round list for a poll, an absent-station probe or a recovery probe, unless the report has removed it.
R148: a SENT clears the pending mark.  R45: LINEERROR leaves every station's entry as it was (a disable that waits is
R60's).
The model's reading in it: a round that a removal in step 1 or step 4 makes due starts only after all six steps, in
afterRemoval, where R106, R107 and R110 say at that instant (log 14). -/
def Obligations.ReportTakenInStepsEndsTheExchange : Prop :=
  (∀ (r : Report) (s : State),
     let s1 := stationStep r { s with engine := none }
     let s2 := attentionStep r s1.1
     let s3 := slotStep r s1.2 s2
     let s4 := disableStep r s3
     let s5 := linkStep r s4
     let s6 := timeStep r s5
     takeReport r s = afterRemoval (leaveList r.job s6) ∧
     s6 = { s5 with time := { s5.time with pendingMark := if r.outcome = .sent then false else s5.time.pendingMark } }) ∧
  (∀ (j : Job) (s : State),
     (∀ n, j = .probe .discovery n →
       (∀ rest, s.sched.discovery = n :: rest →
         leaveList j s = { s with sched := { s.sched with discovery := rest } }) ∧
       (s.sched.discovery.head? ≠ some n → leaveList j s = s)) ∧
     (∀ n, j = .poll n ∨ j = .probe .absentStation n ∨ j = .probe .recovery n →
       (∀ item rest, s.sched.roundList = item :: rest → item.station = n →
         leaveList j s = { s with sched := { s.sched with roundList := rest } }) ∧
       ((∀ item rest, s.sched.roundList = item :: rest → item.station ≠ n) → leaveList j s = s)) ∧
     (j = .timeMark ∨ (∃ n, j = .attnAck n ∨ j = .probe .resync n) ∨ (∃ i k n sent, j = .request i k n sent) →
       leaveList j s = s)) ∧
  (∀ (r : Report) (s : State),
     (takeReport r s).engine = none ∧ (takeReport r s).receiver = s.receiver ∧ (takeReport r s).host = s.host ∧
     (takeReport r s).clock = s.clock ∧ (takeReport r s).time.counter = s.time.counter ∧
     (takeReport r s).time.snapshot = s.time.snapshot ∧ (takeReport r s).pending = s.pending ∧
     (takeReport r s).link.config = s.link.config ∧ (takeReport r s).link.wrej = s.link.wrej ∧
     (r.outcome = .sent → (takeReport r s).time.pendingMark = false)) ∧
  ∀ (r : Report) (s : State) (n : StationId), r.outcome = .lineError → r.reply = none →
    (∀ m, (s.station m).disablePending = false) → (takeReport r s).station n = s.station n

/-! ### What every step keeps -/

/-- R46: the health arithmetic and the transitions keep every entry's counters within their bounds. -/
def Obligations.HealthBoundsAreKept : Prop :=
  (∀ n, (State.reset.station n).countersBounded) ∧
  ∀ s t : State, (∀ n, (s.station n).countersBounded) → step s = .next t → ∀ n, (t.station n).countersBounded

/-- R134: the queue holds between 0 and 16 entries; entries join only at the tail, and leave only at the head by POP
or all at once by device reset. -/
def Obligations.QueueOrderIsKept : Prop :=
  ∀ (c : Instr) (s t : State), s.notes.queue.length ≤ 16 → exec c s = .next t →
    t.notes.queue.length ≤ 16 ∧
    ((c = .deviceReset ∧ t.notes.queue = []) ∨
      ((c = .pop ∨ c = .unknownCommandCode 0x30 ∨ c = .registerWrite 0 0x30) ∧
        t.notes.queue = s.notes.queue.tail) ∨
      (∃ l, t.notes.queue = s.notes.queue ++ l))

/-- R71, R89: a slot that is DONE or FAILED keeps every field until RELEASE or device reset. -/
def Obligations.FinishedSlotsAreFrozen : Prop :=
  ∀ (c : Instr) (s t : State) (i : SlotId), s.Inv → c.wellFormed = true → c ≠ .release → c ≠ .deviceReset →
    (s.slot i).state = .done ∨ (s.slot i).state = .failed → exec c s = .next t → t.slot i = s.slot i

/-- The state after reset keeps all that Safety.lean gathers in State.Inv. -/
def Obligations.InvariantHoldsAtReset : Prop := State.reset.Inv

/-- Every step keeps all that Safety.lean gathers in State.Inv: the bounds of R46, the attention fields of R114 and
R120, the table of section 9.1, the agreement of the exchange in flight with the table, the slots and the lists (R41,
R77, R109), the service list (R74) and its law (section 4.8), the queue (R134), the ranges (R165) and the lists
(R103, R108). -/
def Obligations.InvariantIsKeptByEveryStep : Prop :=
  ∀ s t : State, s.Inv → step s = .next t → t.Inv

end
end

