-- ==== Sys2Proof/Laws/State.lean ====
section
/-! SUPPORT. What each update of a block leaves in each field, and the entries of the two tables. -/

namespace Sys2Proof.Machine

/-! ### setHost -/

@[simp] theorem setHost_host (s : State) (x : HostUnit) : (s.setHost x).host = x := rfl
@[simp] theorem setHost_link (s : State) (x : HostUnit) : (s.setHost x).link = s.link := rfl
@[simp] theorem setHost_sched (s : State) (x : HostUnit) : (s.setHost x).sched = s.sched := rfl
@[simp] theorem setHost_engine (s : State) (x : HostUnit) : (s.setHost x).engine = s.engine := rfl
@[simp] theorem setHost_receiver (s : State) (x : HostUnit) : (s.setHost x).receiver = s.receiver := rfl
@[simp] theorem setHost_stations (s : State) (x : HostUnit) : (s.setHost x).stations = s.stations := rfl
@[simp] theorem setHost_slots (s : State) (x : HostUnit) : (s.setHost x).slots = s.slots := rfl
@[simp] theorem setHost_service (s : State) (x : HostUnit) : (s.setHost x).service = s.service := rfl
@[simp] theorem setHost_notes (s : State) (x : HostUnit) : (s.setHost x).notes = s.notes := rfl
@[simp] theorem setHost_time (s : State) (x : HostUnit) : (s.setHost x).time = s.time := rfl
@[simp] theorem setHost_clock (s : State) (x : HostUnit) : (s.setHost x).clock = s.clock := rfl
@[simp] theorem setHost_inReset (s : State) (x : HostUnit) : (s.setHost x).inReset = s.inReset := rfl
@[simp] theorem setHost_clkRunning (s : State) (x : HostUnit) : (s.setHost x).clkRunning = s.clkRunning := rfl
@[simp] theorem setHost_pending (s : State) (x : HostUnit) : (s.setHost x).pending = s.pending := rfl
@[simp] theorem setHost_station (s : State) (x : HostUnit) (n : StationId) : (s.setHost x).station n = s.station n := rfl
@[simp] theorem setHost_slot (s : State) (x : HostUnit) (i : SlotId) : (s.setHost x).slot i = s.slot i := rfl

/-! ### setLink -/

@[simp] theorem setLink_host (s : State) (x : LinkUnit) : (s.setLink x).host = s.host := rfl
@[simp] theorem setLink_link (s : State) (x : LinkUnit) : (s.setLink x).link = x := rfl
@[simp] theorem setLink_sched (s : State) (x : LinkUnit) : (s.setLink x).sched = s.sched := rfl
@[simp] theorem setLink_engine (s : State) (x : LinkUnit) : (s.setLink x).engine = s.engine := rfl
@[simp] theorem setLink_receiver (s : State) (x : LinkUnit) : (s.setLink x).receiver = s.receiver := rfl
@[simp] theorem setLink_stations (s : State) (x : LinkUnit) : (s.setLink x).stations = s.stations := rfl
@[simp] theorem setLink_slots (s : State) (x : LinkUnit) : (s.setLink x).slots = s.slots := rfl
@[simp] theorem setLink_service (s : State) (x : LinkUnit) : (s.setLink x).service = s.service := rfl
@[simp] theorem setLink_notes (s : State) (x : LinkUnit) : (s.setLink x).notes = s.notes := rfl
@[simp] theorem setLink_time (s : State) (x : LinkUnit) : (s.setLink x).time = s.time := rfl
@[simp] theorem setLink_clock (s : State) (x : LinkUnit) : (s.setLink x).clock = s.clock := rfl
@[simp] theorem setLink_inReset (s : State) (x : LinkUnit) : (s.setLink x).inReset = s.inReset := rfl
@[simp] theorem setLink_clkRunning (s : State) (x : LinkUnit) : (s.setLink x).clkRunning = s.clkRunning := rfl
@[simp] theorem setLink_pending (s : State) (x : LinkUnit) : (s.setLink x).pending = s.pending := rfl
@[simp] theorem setLink_station (s : State) (x : LinkUnit) (n : StationId) : (s.setLink x).station n = s.station n := rfl
@[simp] theorem setLink_slot (s : State) (x : LinkUnit) (i : SlotId) : (s.setLink x).slot i = s.slot i := rfl

/-! ### setSched -/

@[simp] theorem setSched_host (s : State) (x : Scheduler) : (s.setSched x).host = s.host := rfl
@[simp] theorem setSched_link (s : State) (x : Scheduler) : (s.setSched x).link = s.link := rfl
@[simp] theorem setSched_sched (s : State) (x : Scheduler) : (s.setSched x).sched = x := rfl
@[simp] theorem setSched_engine (s : State) (x : Scheduler) : (s.setSched x).engine = s.engine := rfl
@[simp] theorem setSched_receiver (s : State) (x : Scheduler) : (s.setSched x).receiver = s.receiver := rfl
@[simp] theorem setSched_stations (s : State) (x : Scheduler) : (s.setSched x).stations = s.stations := rfl
@[simp] theorem setSched_slots (s : State) (x : Scheduler) : (s.setSched x).slots = s.slots := rfl
@[simp] theorem setSched_service (s : State) (x : Scheduler) : (s.setSched x).service = s.service := rfl
@[simp] theorem setSched_notes (s : State) (x : Scheduler) : (s.setSched x).notes = s.notes := rfl
@[simp] theorem setSched_time (s : State) (x : Scheduler) : (s.setSched x).time = s.time := rfl
@[simp] theorem setSched_clock (s : State) (x : Scheduler) : (s.setSched x).clock = s.clock := rfl
@[simp] theorem setSched_inReset (s : State) (x : Scheduler) : (s.setSched x).inReset = s.inReset := rfl
@[simp] theorem setSched_clkRunning (s : State) (x : Scheduler) : (s.setSched x).clkRunning = s.clkRunning := rfl
@[simp] theorem setSched_pending (s : State) (x : Scheduler) : (s.setSched x).pending = s.pending := rfl
@[simp] theorem setSched_station (s : State) (x : Scheduler) (n : StationId) : (s.setSched x).station n = s.station n := rfl
@[simp] theorem setSched_slot (s : State) (x : Scheduler) (i : SlotId) : (s.setSched x).slot i = s.slot i := rfl

/-! ### setEngine -/

@[simp] theorem setEngine_host (s : State) (x : Option Exchange) : (s.setEngine x).host = s.host := rfl
@[simp] theorem setEngine_link (s : State) (x : Option Exchange) : (s.setEngine x).link = s.link := rfl
@[simp] theorem setEngine_sched (s : State) (x : Option Exchange) : (s.setEngine x).sched = s.sched := rfl
@[simp] theorem setEngine_engine (s : State) (x : Option Exchange) : (s.setEngine x).engine = x := rfl
@[simp] theorem setEngine_receiver (s : State) (x : Option Exchange) : (s.setEngine x).receiver = s.receiver := rfl
@[simp] theorem setEngine_stations (s : State) (x : Option Exchange) : (s.setEngine x).stations = s.stations := rfl
@[simp] theorem setEngine_slots (s : State) (x : Option Exchange) : (s.setEngine x).slots = s.slots := rfl
@[simp] theorem setEngine_service (s : State) (x : Option Exchange) : (s.setEngine x).service = s.service := rfl
@[simp] theorem setEngine_notes (s : State) (x : Option Exchange) : (s.setEngine x).notes = s.notes := rfl
@[simp] theorem setEngine_time (s : State) (x : Option Exchange) : (s.setEngine x).time = s.time := rfl
@[simp] theorem setEngine_clock (s : State) (x : Option Exchange) : (s.setEngine x).clock = s.clock := rfl
@[simp] theorem setEngine_inReset (s : State) (x : Option Exchange) : (s.setEngine x).inReset = s.inReset := rfl
@[simp] theorem setEngine_clkRunning (s : State) (x : Option Exchange) : (s.setEngine x).clkRunning = s.clkRunning := rfl
@[simp] theorem setEngine_pending (s : State) (x : Option Exchange) : (s.setEngine x).pending = s.pending := rfl
@[simp] theorem setEngine_station (s : State) (x : Option Exchange) (n : StationId) : (s.setEngine x).station n = s.station n := rfl
@[simp] theorem setEngine_slot (s : State) (x : Option Exchange) (i : SlotId) : (s.setEngine x).slot i = s.slot i := rfl

/-! ### setReceiver -/

@[simp] theorem setReceiver_host (s : State) (x : Receiver) : (s.setReceiver x).host = s.host := rfl
@[simp] theorem setReceiver_link (s : State) (x : Receiver) : (s.setReceiver x).link = s.link := rfl
@[simp] theorem setReceiver_sched (s : State) (x : Receiver) : (s.setReceiver x).sched = s.sched := rfl
@[simp] theorem setReceiver_engine (s : State) (x : Receiver) : (s.setReceiver x).engine = s.engine := rfl
@[simp] theorem setReceiver_receiver (s : State) (x : Receiver) : (s.setReceiver x).receiver = x := rfl
@[simp] theorem setReceiver_stations (s : State) (x : Receiver) : (s.setReceiver x).stations = s.stations := rfl
@[simp] theorem setReceiver_slots (s : State) (x : Receiver) : (s.setReceiver x).slots = s.slots := rfl
@[simp] theorem setReceiver_service (s : State) (x : Receiver) : (s.setReceiver x).service = s.service := rfl
@[simp] theorem setReceiver_notes (s : State) (x : Receiver) : (s.setReceiver x).notes = s.notes := rfl
@[simp] theorem setReceiver_time (s : State) (x : Receiver) : (s.setReceiver x).time = s.time := rfl
@[simp] theorem setReceiver_clock (s : State) (x : Receiver) : (s.setReceiver x).clock = s.clock := rfl
@[simp] theorem setReceiver_inReset (s : State) (x : Receiver) : (s.setReceiver x).inReset = s.inReset := rfl
@[simp] theorem setReceiver_clkRunning (s : State) (x : Receiver) : (s.setReceiver x).clkRunning = s.clkRunning := rfl
@[simp] theorem setReceiver_pending (s : State) (x : Receiver) : (s.setReceiver x).pending = s.pending := rfl
@[simp] theorem setReceiver_station (s : State) (x : Receiver) (n : StationId) : (s.setReceiver x).station n = s.station n := rfl
@[simp] theorem setReceiver_slot (s : State) (x : Receiver) (i : SlotId) : (s.setReceiver x).slot i = s.slot i := rfl

/-! ### setStations -/

@[simp] theorem setStations_host (s : State) (x : Vector Station 31) : (s.setStations x).host = s.host := rfl
@[simp] theorem setStations_link (s : State) (x : Vector Station 31) : (s.setStations x).link = s.link := rfl
@[simp] theorem setStations_sched (s : State) (x : Vector Station 31) : (s.setStations x).sched = s.sched := rfl
@[simp] theorem setStations_engine (s : State) (x : Vector Station 31) : (s.setStations x).engine = s.engine := rfl
@[simp] theorem setStations_receiver (s : State) (x : Vector Station 31) : (s.setStations x).receiver = s.receiver := rfl
@[simp] theorem setStations_stations (s : State) (x : Vector Station 31) : (s.setStations x).stations = x := rfl
@[simp] theorem setStations_slots (s : State) (x : Vector Station 31) : (s.setStations x).slots = s.slots := rfl
@[simp] theorem setStations_service (s : State) (x : Vector Station 31) : (s.setStations x).service = s.service := rfl
@[simp] theorem setStations_notes (s : State) (x : Vector Station 31) : (s.setStations x).notes = s.notes := rfl
@[simp] theorem setStations_time (s : State) (x : Vector Station 31) : (s.setStations x).time = s.time := rfl
@[simp] theorem setStations_clock (s : State) (x : Vector Station 31) : (s.setStations x).clock = s.clock := rfl
@[simp] theorem setStations_inReset (s : State) (x : Vector Station 31) : (s.setStations x).inReset = s.inReset := rfl
@[simp] theorem setStations_clkRunning (s : State) (x : Vector Station 31) : (s.setStations x).clkRunning = s.clkRunning := rfl
@[simp] theorem setStations_pending (s : State) (x : Vector Station 31) : (s.setStations x).pending = s.pending := rfl
@[simp] theorem setStations_slot (s : State) (x : Vector Station 31) (i : SlotId) : (s.setStations x).slot i = s.slot i := rfl

/-! ### setSlots -/

@[simp] theorem setSlots_host (s : State) (x : Vector Slot 8) : (s.setSlots x).host = s.host := rfl
@[simp] theorem setSlots_link (s : State) (x : Vector Slot 8) : (s.setSlots x).link = s.link := rfl
@[simp] theorem setSlots_sched (s : State) (x : Vector Slot 8) : (s.setSlots x).sched = s.sched := rfl
@[simp] theorem setSlots_engine (s : State) (x : Vector Slot 8) : (s.setSlots x).engine = s.engine := rfl
@[simp] theorem setSlots_receiver (s : State) (x : Vector Slot 8) : (s.setSlots x).receiver = s.receiver := rfl
@[simp] theorem setSlots_stations (s : State) (x : Vector Slot 8) : (s.setSlots x).stations = s.stations := rfl
@[simp] theorem setSlots_slots (s : State) (x : Vector Slot 8) : (s.setSlots x).slots = x := rfl
@[simp] theorem setSlots_service (s : State) (x : Vector Slot 8) : (s.setSlots x).service = s.service := rfl
@[simp] theorem setSlots_notes (s : State) (x : Vector Slot 8) : (s.setSlots x).notes = s.notes := rfl
@[simp] theorem setSlots_time (s : State) (x : Vector Slot 8) : (s.setSlots x).time = s.time := rfl
@[simp] theorem setSlots_clock (s : State) (x : Vector Slot 8) : (s.setSlots x).clock = s.clock := rfl
@[simp] theorem setSlots_inReset (s : State) (x : Vector Slot 8) : (s.setSlots x).inReset = s.inReset := rfl
@[simp] theorem setSlots_clkRunning (s : State) (x : Vector Slot 8) : (s.setSlots x).clkRunning = s.clkRunning := rfl
@[simp] theorem setSlots_pending (s : State) (x : Vector Slot 8) : (s.setSlots x).pending = s.pending := rfl
@[simp] theorem setSlots_station (s : State) (x : Vector Slot 8) (n : StationId) : (s.setSlots x).station n = s.station n := rfl

/-! ### setService -/

@[simp] theorem setService_host (s : State) (x : List SlotId) : (s.setService x).host = s.host := rfl
@[simp] theorem setService_link (s : State) (x : List SlotId) : (s.setService x).link = s.link := rfl
@[simp] theorem setService_sched (s : State) (x : List SlotId) : (s.setService x).sched = s.sched := rfl
@[simp] theorem setService_engine (s : State) (x : List SlotId) : (s.setService x).engine = s.engine := rfl
@[simp] theorem setService_receiver (s : State) (x : List SlotId) : (s.setService x).receiver = s.receiver := rfl
@[simp] theorem setService_stations (s : State) (x : List SlotId) : (s.setService x).stations = s.stations := rfl
@[simp] theorem setService_slots (s : State) (x : List SlotId) : (s.setService x).slots = s.slots := rfl
@[simp] theorem setService_service (s : State) (x : List SlotId) : (s.setService x).service = x := rfl
@[simp] theorem setService_notes (s : State) (x : List SlotId) : (s.setService x).notes = s.notes := rfl
@[simp] theorem setService_time (s : State) (x : List SlotId) : (s.setService x).time = s.time := rfl
@[simp] theorem setService_clock (s : State) (x : List SlotId) : (s.setService x).clock = s.clock := rfl
@[simp] theorem setService_inReset (s : State) (x : List SlotId) : (s.setService x).inReset = s.inReset := rfl
@[simp] theorem setService_clkRunning (s : State) (x : List SlotId) : (s.setService x).clkRunning = s.clkRunning := rfl
@[simp] theorem setService_pending (s : State) (x : List SlotId) : (s.setService x).pending = s.pending := rfl
@[simp] theorem setService_station (s : State) (x : List SlotId) (n : StationId) : (s.setService x).station n = s.station n := rfl
@[simp] theorem setService_slot (s : State) (x : List SlotId) (i : SlotId) : (s.setService x).slot i = s.slot i := rfl

/-! ### setNotes -/

@[simp] theorem setNotes_host (s : State) (x : NotificationUnit) : (s.setNotes x).host = s.host := rfl
@[simp] theorem setNotes_link (s : State) (x : NotificationUnit) : (s.setNotes x).link = s.link := rfl
@[simp] theorem setNotes_sched (s : State) (x : NotificationUnit) : (s.setNotes x).sched = s.sched := rfl
@[simp] theorem setNotes_engine (s : State) (x : NotificationUnit) : (s.setNotes x).engine = s.engine := rfl
@[simp] theorem setNotes_receiver (s : State) (x : NotificationUnit) : (s.setNotes x).receiver = s.receiver := rfl
@[simp] theorem setNotes_stations (s : State) (x : NotificationUnit) : (s.setNotes x).stations = s.stations := rfl
@[simp] theorem setNotes_slots (s : State) (x : NotificationUnit) : (s.setNotes x).slots = s.slots := rfl
@[simp] theorem setNotes_service (s : State) (x : NotificationUnit) : (s.setNotes x).service = s.service := rfl
@[simp] theorem setNotes_notes (s : State) (x : NotificationUnit) : (s.setNotes x).notes = x := rfl
@[simp] theorem setNotes_time (s : State) (x : NotificationUnit) : (s.setNotes x).time = s.time := rfl
@[simp] theorem setNotes_clock (s : State) (x : NotificationUnit) : (s.setNotes x).clock = s.clock := rfl
@[simp] theorem setNotes_inReset (s : State) (x : NotificationUnit) : (s.setNotes x).inReset = s.inReset := rfl
@[simp] theorem setNotes_clkRunning (s : State) (x : NotificationUnit) : (s.setNotes x).clkRunning = s.clkRunning := rfl
@[simp] theorem setNotes_pending (s : State) (x : NotificationUnit) : (s.setNotes x).pending = s.pending := rfl
@[simp] theorem setNotes_station (s : State) (x : NotificationUnit) (n : StationId) : (s.setNotes x).station n = s.station n := rfl
@[simp] theorem setNotes_slot (s : State) (x : NotificationUnit) (i : SlotId) : (s.setNotes x).slot i = s.slot i := rfl

/-! ### setTime -/

@[simp] theorem setTime_host (s : State) (x : TimeBase) : (s.setTime x).host = s.host := rfl
@[simp] theorem setTime_link (s : State) (x : TimeBase) : (s.setTime x).link = s.link := rfl
@[simp] theorem setTime_sched (s : State) (x : TimeBase) : (s.setTime x).sched = s.sched := rfl
@[simp] theorem setTime_engine (s : State) (x : TimeBase) : (s.setTime x).engine = s.engine := rfl
@[simp] theorem setTime_receiver (s : State) (x : TimeBase) : (s.setTime x).receiver = s.receiver := rfl
@[simp] theorem setTime_stations (s : State) (x : TimeBase) : (s.setTime x).stations = s.stations := rfl
@[simp] theorem setTime_slots (s : State) (x : TimeBase) : (s.setTime x).slots = s.slots := rfl
@[simp] theorem setTime_service (s : State) (x : TimeBase) : (s.setTime x).service = s.service := rfl
@[simp] theorem setTime_notes (s : State) (x : TimeBase) : (s.setTime x).notes = s.notes := rfl
@[simp] theorem setTime_time (s : State) (x : TimeBase) : (s.setTime x).time = x := rfl
@[simp] theorem setTime_clock (s : State) (x : TimeBase) : (s.setTime x).clock = s.clock := rfl
@[simp] theorem setTime_inReset (s : State) (x : TimeBase) : (s.setTime x).inReset = s.inReset := rfl
@[simp] theorem setTime_clkRunning (s : State) (x : TimeBase) : (s.setTime x).clkRunning = s.clkRunning := rfl
@[simp] theorem setTime_pending (s : State) (x : TimeBase) : (s.setTime x).pending = s.pending := rfl
@[simp] theorem setTime_station (s : State) (x : TimeBase) (n : StationId) : (s.setTime x).station n = s.station n := rfl
@[simp] theorem setTime_slot (s : State) (x : TimeBase) (i : SlotId) : (s.setTime x).slot i = s.slot i := rfl

/-! ### setStation -/

@[simp] theorem setStation_host (s : State) (n : StationId) (x : Station) : (s.setStation n x).host = s.host := rfl
@[simp] theorem setStation_link (s : State) (n : StationId) (x : Station) : (s.setStation n x).link = s.link := rfl
@[simp] theorem setStation_sched (s : State) (n : StationId) (x : Station) : (s.setStation n x).sched = s.sched := rfl
@[simp] theorem setStation_engine (s : State) (n : StationId) (x : Station) : (s.setStation n x).engine = s.engine := rfl
@[simp] theorem setStation_receiver (s : State) (n : StationId) (x : Station) : (s.setStation n x).receiver = s.receiver := rfl
@[simp] theorem setStation_slots (s : State) (n : StationId) (x : Station) : (s.setStation n x).slots = s.slots := rfl
@[simp] theorem setStation_service (s : State) (n : StationId) (x : Station) : (s.setStation n x).service = s.service := rfl
@[simp] theorem setStation_notes (s : State) (n : StationId) (x : Station) : (s.setStation n x).notes = s.notes := rfl
@[simp] theorem setStation_time (s : State) (n : StationId) (x : Station) : (s.setStation n x).time = s.time := rfl
@[simp] theorem setStation_clock (s : State) (n : StationId) (x : Station) : (s.setStation n x).clock = s.clock := rfl
@[simp] theorem setStation_inReset (s : State) (n : StationId) (x : Station) : (s.setStation n x).inReset = s.inReset := rfl
@[simp] theorem setStation_clkRunning (s : State) (n : StationId) (x : Station) : (s.setStation n x).clkRunning = s.clkRunning := rfl
@[simp] theorem setStation_pending (s : State) (n : StationId) (x : Station) : (s.setStation n x).pending = s.pending := rfl
@[simp] theorem setStation_slot (s : State) (n : StationId) (x : Station) (i : SlotId) :
    (s.setStation n x).slot i = s.slot i := rfl

theorem setStation_station (s : State) (n m : StationId) (x : Station) :
    (s.setStation n x).station m = if n = m then x else s.station m := by
  simp [State.setStation, State.station, State.setStations, Vector.getElem_set, Fin.ext_iff]

@[simp] theorem setStation_station_same (s : State) (n : StationId) (x : Station) :
    (s.setStation n x).station n = x := by simp [setStation_station]

theorem setStation_station_other (s : State) {n m : StationId} (h : n ≠ m) (x : Station) :
    (s.setStation n x).station m = s.station m := by simp [setStation_station, h]

/-! ### setSlot -/

@[simp] theorem setSlot_host (s : State) (n : SlotId) (x : Slot) : (s.setSlot n x).host = s.host := rfl
@[simp] theorem setSlot_link (s : State) (n : SlotId) (x : Slot) : (s.setSlot n x).link = s.link := rfl
@[simp] theorem setSlot_sched (s : State) (n : SlotId) (x : Slot) : (s.setSlot n x).sched = s.sched := rfl
@[simp] theorem setSlot_engine (s : State) (n : SlotId) (x : Slot) : (s.setSlot n x).engine = s.engine := rfl
@[simp] theorem setSlot_receiver (s : State) (n : SlotId) (x : Slot) : (s.setSlot n x).receiver = s.receiver := rfl
@[simp] theorem setSlot_stations (s : State) (n : SlotId) (x : Slot) : (s.setSlot n x).stations = s.stations := rfl
@[simp] theorem setSlot_service (s : State) (n : SlotId) (x : Slot) : (s.setSlot n x).service = s.service := rfl
@[simp] theorem setSlot_notes (s : State) (n : SlotId) (x : Slot) : (s.setSlot n x).notes = s.notes := rfl
@[simp] theorem setSlot_time (s : State) (n : SlotId) (x : Slot) : (s.setSlot n x).time = s.time := rfl
@[simp] theorem setSlot_clock (s : State) (n : SlotId) (x : Slot) : (s.setSlot n x).clock = s.clock := rfl
@[simp] theorem setSlot_inReset (s : State) (n : SlotId) (x : Slot) : (s.setSlot n x).inReset = s.inReset := rfl
@[simp] theorem setSlot_clkRunning (s : State) (n : SlotId) (x : Slot) : (s.setSlot n x).clkRunning = s.clkRunning := rfl
@[simp] theorem setSlot_pending (s : State) (n : SlotId) (x : Slot) : (s.setSlot n x).pending = s.pending := rfl
@[simp] theorem setSlot_station (s : State) (i : SlotId) (x : Slot) (n : StationId) :
    (s.setSlot i x).station n = s.station n := rfl

theorem setSlot_slot (s : State) (i j : SlotId) (x : Slot) :
    (s.setSlot i x).slot j = if i = j then x else s.slot j := by
  simp [State.setSlot, State.slot, State.setSlots, Vector.getElem_set, Fin.ext_iff]

@[simp] theorem setSlot_slot_same (s : State) (i : SlotId) (x : Slot) :
    (s.setSlot i x).slot i = x := by simp [setSlot_slot]

theorem setSlot_slot_other (s : State) {i j : SlotId} (h : i ≠ j) (x : Slot) :
    (s.setSlot i x).slot j = s.slot j := by simp [setSlot_slot, h]

/-! ### Whole tables -/

@[simp] theorem mapVec_getElem {α β : Type} {n : Nat} (f : α → β) (v : Vector α n) (i : Nat) (h : i < n) :
    (mapVec f v)[i] = f v[i] := by simp [mapVec]

@[simp] theorem setStations_station (s : State) (v : Vector Station 31) (n : StationId) :
    (s.setStations v).station n = v[n] := rfl

@[simp] theorem setSlots_slot (s : State) (v : Vector Slot 8) (i : SlotId) : (s.setSlots v).slot i = v[i] := rfl

/-! ### Flags and results -/

@[simp] theorem setCmdres_link (s : State) (r : ResultCode) : (s.setCmdres r).link = s.link := rfl
@[simp] theorem setCmdres_sched (s : State) (r : ResultCode) : (s.setCmdres r).sched = s.sched := rfl
@[simp] theorem setCmdres_engine (s : State) (r : ResultCode) : (s.setCmdres r).engine = s.engine := rfl
@[simp] theorem setCmdres_receiver (s : State) (r : ResultCode) : (s.setCmdres r).receiver = s.receiver := rfl
@[simp] theorem setCmdres_stations (s : State) (r : ResultCode) : (s.setCmdres r).stations = s.stations := rfl
@[simp] theorem setCmdres_slots (s : State) (r : ResultCode) : (s.setCmdres r).slots = s.slots := rfl
@[simp] theorem setCmdres_service (s : State) (r : ResultCode) : (s.setCmdres r).service = s.service := rfl
@[simp] theorem setCmdres_notes (s : State) (r : ResultCode) : (s.setCmdres r).notes = s.notes := rfl
@[simp] theorem setCmdres_time (s : State) (r : ResultCode) : (s.setCmdres r).time = s.time := rfl
@[simp] theorem setCmdres_clock (s : State) (r : ResultCode) : (s.setCmdres r).clock = s.clock := rfl
@[simp] theorem setCmdres_inReset (s : State) (r : ResultCode) : (s.setCmdres r).inReset = s.inReset := rfl
@[simp] theorem setCmdres_clkRunning (s : State) (r : ResultCode) : (s.setCmdres r).clkRunning = s.clkRunning := rfl
@[simp] theorem setCmdres_pending (s : State) (r : ResultCode) : (s.setCmdres r).pending = s.pending := rfl
@[simp] theorem setCmdres_station (s : State) (r : ResultCode) (m : StationId) : (s.setCmdres r).station m = s.station m := rfl
@[simp] theorem setCmdres_slot (s : State) (r : ResultCode) (j : SlotId) : (s.setCmdres r).slot j = s.slot j := rfl

@[simp] theorem rejectWrite_host (s : State) : (s.rejectWrite).host = s.host := rfl
@[simp] theorem rejectWrite_sched (s : State) : (s.rejectWrite).sched = s.sched := rfl
@[simp] theorem rejectWrite_engine (s : State) : (s.rejectWrite).engine = s.engine := rfl
@[simp] theorem rejectWrite_receiver (s : State) : (s.rejectWrite).receiver = s.receiver := rfl
@[simp] theorem rejectWrite_stations (s : State) : (s.rejectWrite).stations = s.stations := rfl
@[simp] theorem rejectWrite_slots (s : State) : (s.rejectWrite).slots = s.slots := rfl
@[simp] theorem rejectWrite_service (s : State) : (s.rejectWrite).service = s.service := rfl
@[simp] theorem rejectWrite_notes (s : State) : (s.rejectWrite).notes = s.notes := rfl
@[simp] theorem rejectWrite_time (s : State) : (s.rejectWrite).time = s.time := rfl
@[simp] theorem rejectWrite_clock (s : State) : (s.rejectWrite).clock = s.clock := rfl
@[simp] theorem rejectWrite_inReset (s : State) : (s.rejectWrite).inReset = s.inReset := rfl
@[simp] theorem rejectWrite_clkRunning (s : State) : (s.rejectWrite).clkRunning = s.clkRunning := rfl
@[simp] theorem rejectWrite_pending (s : State) : (s.rejectWrite).pending = s.pending := rfl
@[simp] theorem rejectWrite_station (s : State) (m : StationId) : (s.rejectWrite).station m = s.station m := rfl
@[simp] theorem rejectWrite_slot (s : State) (j : SlotId) : (s.rejectWrite).slot j = s.slot j := rfl

@[simp] theorem setLinkFlag_host (s : State) : (s.setLinkFlag).host = s.host := rfl
@[simp] theorem setLinkFlag_sched (s : State) : (s.setLinkFlag).sched = s.sched := rfl
@[simp] theorem setLinkFlag_engine (s : State) : (s.setLinkFlag).engine = s.engine := rfl
@[simp] theorem setLinkFlag_receiver (s : State) : (s.setLinkFlag).receiver = s.receiver := rfl
@[simp] theorem setLinkFlag_stations (s : State) : (s.setLinkFlag).stations = s.stations := rfl
@[simp] theorem setLinkFlag_slots (s : State) : (s.setLinkFlag).slots = s.slots := rfl
@[simp] theorem setLinkFlag_service (s : State) : (s.setLinkFlag).service = s.service := rfl
@[simp] theorem setLinkFlag_notes (s : State) : (s.setLinkFlag).notes = s.notes := rfl
@[simp] theorem setLinkFlag_time (s : State) : (s.setLinkFlag).time = s.time := rfl
@[simp] theorem setLinkFlag_clock (s : State) : (s.setLinkFlag).clock = s.clock := rfl
@[simp] theorem setLinkFlag_inReset (s : State) : (s.setLinkFlag).inReset = s.inReset := rfl
@[simp] theorem setLinkFlag_clkRunning (s : State) : (s.setLinkFlag).clkRunning = s.clkRunning := rfl
@[simp] theorem setLinkFlag_pending (s : State) : (s.setLinkFlag).pending = s.pending := rfl
@[simp] theorem setLinkFlag_station (s : State) (m : StationId) : (s.setLinkFlag).station m = s.station m := rfl
@[simp] theorem setLinkFlag_slot (s : State) (j : SlotId) : (s.setLinkFlag).slot j = s.slot j := rfl

@[simp] theorem setLinkState_host (s : State) (l : LinkState) : (s.setLinkState l).host = s.host := rfl
@[simp] theorem setLinkState_sched (s : State) (l : LinkState) : (s.setLinkState l).sched = s.sched := rfl
@[simp] theorem setLinkState_engine (s : State) (l : LinkState) : (s.setLinkState l).engine = s.engine := rfl
@[simp] theorem setLinkState_receiver (s : State) (l : LinkState) : (s.setLinkState l).receiver = s.receiver := rfl
@[simp] theorem setLinkState_stations (s : State) (l : LinkState) : (s.setLinkState l).stations = s.stations := rfl
@[simp] theorem setLinkState_slots (s : State) (l : LinkState) : (s.setLinkState l).slots = s.slots := rfl
@[simp] theorem setLinkState_service (s : State) (l : LinkState) : (s.setLinkState l).service = s.service := rfl
@[simp] theorem setLinkState_notes (s : State) (l : LinkState) : (s.setLinkState l).notes = s.notes := rfl
@[simp] theorem setLinkState_time (s : State) (l : LinkState) : (s.setLinkState l).time = s.time := rfl
@[simp] theorem setLinkState_clock (s : State) (l : LinkState) : (s.setLinkState l).clock = s.clock := rfl
@[simp] theorem setLinkState_inReset (s : State) (l : LinkState) : (s.setLinkState l).inReset = s.inReset := rfl
@[simp] theorem setLinkState_clkRunning (s : State) (l : LinkState) : (s.setLinkState l).clkRunning = s.clkRunning := rfl
@[simp] theorem setLinkState_pending (s : State) (l : LinkState) : (s.setLinkState l).pending = s.pending := rfl
@[simp] theorem setLinkState_station (s : State) (l : LinkState) (m : StationId) : (s.setLinkState l).station m = s.station m := rfl
@[simp] theorem setLinkState_slot (s : State) (l : LinkState) (j : SlotId) : (s.setLinkState l).slot j = s.slot j := rfl

@[simp] theorem offer_host (s : State) (n : Notification) : (s.offer n).host = s.host := rfl
@[simp] theorem offer_link (s : State) (n : Notification) : (s.offer n).link = s.link := rfl
@[simp] theorem offer_sched (s : State) (n : Notification) : (s.offer n).sched = s.sched := rfl
@[simp] theorem offer_engine (s : State) (n : Notification) : (s.offer n).engine = s.engine := rfl
@[simp] theorem offer_receiver (s : State) (n : Notification) : (s.offer n).receiver = s.receiver := rfl
@[simp] theorem offer_stations (s : State) (n : Notification) : (s.offer n).stations = s.stations := rfl
@[simp] theorem offer_slots (s : State) (n : Notification) : (s.offer n).slots = s.slots := rfl
@[simp] theorem offer_service (s : State) (n : Notification) : (s.offer n).service = s.service := rfl
@[simp] theorem offer_time (s : State) (n : Notification) : (s.offer n).time = s.time := rfl
@[simp] theorem offer_clock (s : State) (n : Notification) : (s.offer n).clock = s.clock := rfl
@[simp] theorem offer_inReset (s : State) (n : Notification) : (s.offer n).inReset = s.inReset := rfl
@[simp] theorem offer_clkRunning (s : State) (n : Notification) : (s.offer n).clkRunning = s.clkRunning := rfl
@[simp] theorem offer_pending (s : State) (n : Notification) : (s.offer n).pending = s.pending := rfl
@[simp] theorem offer_station (s : State) (n : Notification) (m : StationId) : (s.offer n).station m = s.station m := rfl
@[simp] theorem offer_slot (s : State) (n : Notification) (j : SlotId) : (s.offer n).slot j = s.slot j := rfl

@[simp] theorem removeRoundItem_host (s : State) (n : StationId) : (s.removeRoundItem n).host = s.host := rfl
@[simp] theorem removeRoundItem_link (s : State) (n : StationId) : (s.removeRoundItem n).link = s.link := rfl
@[simp] theorem removeRoundItem_engine (s : State) (n : StationId) : (s.removeRoundItem n).engine = s.engine := rfl
@[simp] theorem removeRoundItem_receiver (s : State) (n : StationId) : (s.removeRoundItem n).receiver = s.receiver := rfl
@[simp] theorem removeRoundItem_stations (s : State) (n : StationId) : (s.removeRoundItem n).stations = s.stations := rfl
@[simp] theorem removeRoundItem_slots (s : State) (n : StationId) : (s.removeRoundItem n).slots = s.slots := rfl
@[simp] theorem removeRoundItem_service (s : State) (n : StationId) : (s.removeRoundItem n).service = s.service := rfl
@[simp] theorem removeRoundItem_notes (s : State) (n : StationId) : (s.removeRoundItem n).notes = s.notes := rfl
@[simp] theorem removeRoundItem_time (s : State) (n : StationId) : (s.removeRoundItem n).time = s.time := rfl
@[simp] theorem removeRoundItem_clock (s : State) (n : StationId) : (s.removeRoundItem n).clock = s.clock := rfl
@[simp] theorem removeRoundItem_inReset (s : State) (n : StationId) : (s.removeRoundItem n).inReset = s.inReset := rfl
@[simp] theorem removeRoundItem_clkRunning (s : State) (n : StationId) : (s.removeRoundItem n).clkRunning = s.clkRunning := rfl
@[simp] theorem removeRoundItem_pending (s : State) (n : StationId) : (s.removeRoundItem n).pending = s.pending := rfl
@[simp] theorem removeRoundItem_station (s : State) (n : StationId) (m : StationId) : (s.removeRoundItem n).station m = s.station m := rfl
@[simp] theorem removeRoundItem_slot (s : State) (n : StationId) (j : SlotId) : (s.removeRoundItem n).slot j = s.slot j := rfl

@[simp] theorem removeDiscoveryEntry_host (s : State) (n : StationId) : (s.removeDiscoveryEntry n).host = s.host := rfl
@[simp] theorem removeDiscoveryEntry_link (s : State) (n : StationId) : (s.removeDiscoveryEntry n).link = s.link := rfl
@[simp] theorem removeDiscoveryEntry_engine (s : State) (n : StationId) : (s.removeDiscoveryEntry n).engine = s.engine := rfl
@[simp] theorem removeDiscoveryEntry_receiver (s : State) (n : StationId) : (s.removeDiscoveryEntry n).receiver = s.receiver := rfl
@[simp] theorem removeDiscoveryEntry_stations (s : State) (n : StationId) : (s.removeDiscoveryEntry n).stations = s.stations := rfl
@[simp] theorem removeDiscoveryEntry_slots (s : State) (n : StationId) : (s.removeDiscoveryEntry n).slots = s.slots := rfl
@[simp] theorem removeDiscoveryEntry_service (s : State) (n : StationId) : (s.removeDiscoveryEntry n).service = s.service := rfl
@[simp] theorem removeDiscoveryEntry_notes (s : State) (n : StationId) : (s.removeDiscoveryEntry n).notes = s.notes := rfl
@[simp] theorem removeDiscoveryEntry_time (s : State) (n : StationId) : (s.removeDiscoveryEntry n).time = s.time := rfl
@[simp] theorem removeDiscoveryEntry_clock (s : State) (n : StationId) : (s.removeDiscoveryEntry n).clock = s.clock := rfl
@[simp] theorem removeDiscoveryEntry_inReset (s : State) (n : StationId) : (s.removeDiscoveryEntry n).inReset = s.inReset := rfl
@[simp] theorem removeDiscoveryEntry_clkRunning (s : State) (n : StationId) : (s.removeDiscoveryEntry n).clkRunning = s.clkRunning := rfl
@[simp] theorem removeDiscoveryEntry_pending (s : State) (n : StationId) : (s.removeDiscoveryEntry n).pending = s.pending := rfl
@[simp] theorem removeDiscoveryEntry_station (s : State) (n : StationId) (m : StationId) : (s.removeDiscoveryEntry n).station m = s.station m := rfl
@[simp] theorem removeDiscoveryEntry_slot (s : State) (n : StationId) (j : SlotId) : (s.removeDiscoveryEntry n).slot j = s.slot j := rfl

@[simp] theorem leaveService_host (s : State) (i : SlotId) : (s.leaveService i).host = s.host := rfl
@[simp] theorem leaveService_link (s : State) (i : SlotId) : (s.leaveService i).link = s.link := rfl
@[simp] theorem leaveService_sched (s : State) (i : SlotId) : (s.leaveService i).sched = s.sched := rfl
@[simp] theorem leaveService_engine (s : State) (i : SlotId) : (s.leaveService i).engine = s.engine := rfl
@[simp] theorem leaveService_receiver (s : State) (i : SlotId) : (s.leaveService i).receiver = s.receiver := rfl
@[simp] theorem leaveService_stations (s : State) (i : SlotId) : (s.leaveService i).stations = s.stations := rfl
@[simp] theorem leaveService_slots (s : State) (i : SlotId) : (s.leaveService i).slots = s.slots := rfl
@[simp] theorem leaveService_notes (s : State) (i : SlotId) : (s.leaveService i).notes = s.notes := rfl
@[simp] theorem leaveService_time (s : State) (i : SlotId) : (s.leaveService i).time = s.time := rfl
@[simp] theorem leaveService_clock (s : State) (i : SlotId) : (s.leaveService i).clock = s.clock := rfl
@[simp] theorem leaveService_inReset (s : State) (i : SlotId) : (s.leaveService i).inReset = s.inReset := rfl
@[simp] theorem leaveService_clkRunning (s : State) (i : SlotId) : (s.leaveService i).clkRunning = s.clkRunning := rfl
@[simp] theorem leaveService_pending (s : State) (i : SlotId) : (s.leaveService i).pending = s.pending := rfl
@[simp] theorem leaveService_station (s : State) (i : SlotId) (m : StationId) : (s.leaveService i).station m = s.station m := rfl
@[simp] theorem leaveService_slot (s : State) (i : SlotId) (j : SlotId) : (s.leaveService i).slot j = s.slot j := rfl

@[simp] theorem drive_link (s : State) (v : Byte) : (s.drive v).link = s.link := rfl
@[simp] theorem drive_sched (s : State) (v : Byte) : (s.drive v).sched = s.sched := rfl
@[simp] theorem drive_engine (s : State) (v : Byte) : (s.drive v).engine = s.engine := rfl
@[simp] theorem drive_receiver (s : State) (v : Byte) : (s.drive v).receiver = s.receiver := rfl
@[simp] theorem drive_stations (s : State) (v : Byte) : (s.drive v).stations = s.stations := rfl
@[simp] theorem drive_slots (s : State) (v : Byte) : (s.drive v).slots = s.slots := rfl
@[simp] theorem drive_service (s : State) (v : Byte) : (s.drive v).service = s.service := rfl
@[simp] theorem drive_notes (s : State) (v : Byte) : (s.drive v).notes = s.notes := rfl
@[simp] theorem drive_time (s : State) (v : Byte) : (s.drive v).time = s.time := rfl
@[simp] theorem drive_clock (s : State) (v : Byte) : (s.drive v).clock = s.clock := rfl
@[simp] theorem drive_inReset (s : State) (v : Byte) : (s.drive v).inReset = s.inReset := rfl
@[simp] theorem drive_clkRunning (s : State) (v : Byte) : (s.drive v).clkRunning = s.clkRunning := rfl
@[simp] theorem drive_pending (s : State) (v : Byte) : (s.drive v).pending = s.pending := rfl
@[simp] theorem drive_station (s : State) (v : Byte) (m : StationId) : (s.drive v).station m = s.station m := rfl
@[simp] theorem drive_slot (s : State) (v : Byte) (j : SlotId) : (s.drive v).slot j = s.slot j := rfl

@[simp] theorem advancePointer_link (s : State) : (s.advancePointer).link = s.link := rfl
@[simp] theorem advancePointer_sched (s : State) : (s.advancePointer).sched = s.sched := rfl
@[simp] theorem advancePointer_engine (s : State) : (s.advancePointer).engine = s.engine := rfl
@[simp] theorem advancePointer_receiver (s : State) : (s.advancePointer).receiver = s.receiver := rfl
@[simp] theorem advancePointer_stations (s : State) : (s.advancePointer).stations = s.stations := rfl
@[simp] theorem advancePointer_slots (s : State) : (s.advancePointer).slots = s.slots := rfl
@[simp] theorem advancePointer_service (s : State) : (s.advancePointer).service = s.service := rfl
@[simp] theorem advancePointer_notes (s : State) : (s.advancePointer).notes = s.notes := rfl
@[simp] theorem advancePointer_time (s : State) : (s.advancePointer).time = s.time := rfl
@[simp] theorem advancePointer_clock (s : State) : (s.advancePointer).clock = s.clock := rfl
@[simp] theorem advancePointer_inReset (s : State) : (s.advancePointer).inReset = s.inReset := rfl
@[simp] theorem advancePointer_clkRunning (s : State) : (s.advancePointer).clkRunning = s.clkRunning := rfl
@[simp] theorem advancePointer_pending (s : State) : (s.advancePointer).pending = s.pending := rfl
@[simp] theorem advancePointer_station (s : State) (m : StationId) : (s.advancePointer).station m = s.station m := rfl
@[simp] theorem advancePointer_slot (s : State) (j : SlotId) : (s.advancePointer).slot j = s.slot j := rfl

@[simp] theorem setCmdres_cmdres (s : State) (r : ResultCode) : (s.setCmdres r).host.cmdres = r := rfl
@[simp] theorem setLinkState_state (s : State) (l : LinkState) : (s.setLinkState l).link.state = l := rfl
@[simp] theorem setLinkState_config (s : State) (l : LinkState) : (s.setLinkState l).link.config = s.link.config := rfl
@[simp] theorem setLinkState_lineErrors (s : State) (l : LinkState) :
    (s.setLinkState l).link.lineErrors = s.link.lineErrors := rfl
@[simp] theorem setLinkFlag_state (s : State) : s.setLinkFlag.link.state = s.link.state := rfl
@[simp] theorem setLinkFlag_link_set (s : State) : s.setLinkFlag.link.link = true := rfl
@[simp] theorem setLinkFlag_config (s : State) : s.setLinkFlag.link.config = s.link.config := rfl
@[simp] theorem setLinkFlag_lineErrors (s : State) : s.setLinkFlag.link.lineErrors = s.link.lineErrors := rfl
@[simp] theorem rejectWrite_state (s : State) : s.rejectWrite.link.state = s.link.state := rfl
@[simp] theorem rejectWrite_config (s : State) : s.rejectWrite.link.config = s.link.config := rfl
@[simp] theorem rejectWrite_lineErrors (s : State) : s.rejectWrite.link.lineErrors = s.link.lineErrors := rfl
@[simp] theorem rejectWrite_wrej (s : State) : s.rejectWrite.link.wrej = true := rfl

end Sys2Proof.Machine
end

