-- ==== Sys2Proof/Laws/Operands.lean ====
section
/-! SUPPORT. What the checks of the operands answer: numbers of stations, slots, filter entries and pointers, and the
station that an address names. -/

namespace Sys2Proof.Machine

theorem slotOfByte?_of_eq {v : Byte} {i : SlotId} (h : v.toNat = i.val) : slotOfByte? v = some i := by
  simp [slotOfByte?, h]

theorem slotOfByte?_eq_none {v : Byte} (h : 8 ≤ v.toNat) : slotOfByte? v = none := by
  simp [slotOfByte?]; omega

theorem filterOfByte?_of_eq {v : Byte} {f : FilterId} (h : v.toNat = f.val) : filterOfByte? v = some f := by
  simp [filterOfByte?, h]

theorem filterOfByte?_eq_none {v : Byte} (h : 8 ≤ v.toNat) : filterOfByte? v = none := by
  simp [filterOfByte?]; omega

theorem pointerOfByte?_of_eq {v : Byte} {p : Fin 32} (h : v.toNat = p.val) : pointerOfByte? v = some p := by
  simp [pointerOfByte?, h]

theorem pointerOfByte?_eq_none {v : Byte} (h : 32 ≤ v.toNat) : pointerOfByte? v = none := by
  simp [pointerOfByte?]; omega

theorem stationOfByte?_of_eq {v : Byte} {n : StationId} (h : v.toNat = n.val + 1) : stationOfByte? v = some n := by
  have := n.isLt
  unfold stationOfByte?
  rw [dif_pos (by omega)]
  simp [h]

theorem stationOfByte?_eq_none {v : Byte} (h : v.toNat = 0 ∨ 31 < v.toNat) : stationOfByte? v = none := by
  unfold stationOfByte?
  rw [dif_neg (by omega)]

/-- An address is a station's exactly when it names that station. -/
theorem eq_address_iff {a : BitVec 5} {n : StationId} : a = address n ↔ stationAt? a = some n := by
  unfold stationAt? address
  have h1 := a.isLt
  have h2 := n.isLt
  constructor
  · intro he
    have : a.toNat = n.val + 1 := by rw [he]; simp; omega
    rw [dif_pos (by omega)]
    simp [this]
  · intro he
    split at he
    · simp at he
      apply BitVec.eq_of_toNat_eq
      simp [← he]
      omega
    · simp at he

@[simp] theorem stationAt?_address (n : StationId) : stationAt? (address n) = some n := eq_address_iff.mp rfl

theorem address_injective {n m : StationId} (h : address n = address m) : n = m := by
  have := eq_address_iff.mp h
  rw [stationAt?_address] at this
  exact Option.some.inj this

@[simp] theorem address_inj {n m : StationId} : address n = address m ↔ n = m :=
  ⟨address_injective, fun h => by rw [h]⟩

theorem stationAt?_isSome {a : BitVec 5} : (stationAt? a).isSome = true ↔ a ≠ 0 := by
  unfold stationAt?
  have := a.isLt
  constructor
  · intro h he
    subst he
    simp at h
  · intro h
    have h0 : a.toNat ≠ 0 := fun h0 => h (BitVec.eq_of_toNat_eq (by simpa using h0))
    rw [dif_pos (by omega)]
    rfl

theorem tmark_toNat (c : TimingConfig) : c.tmark.toNat = 256 * c.tmarkh.toNat + c.tmarkl.toNat := by
  have := c.tmarkl.isLt
  simp only [TimingConfig.tmark, BitVec.toNat_append]
  rw [Nat.shiftLeft_eq, Nat.mul_comm, ← Nat.two_pow_add_eq_or_of_lt (by simpa using this)]

end Sys2Proof.Machine
end

