-- ==== Sys2Proof/Laws/Tables.lean ====
section
/-! SUPPORT. Entries of the mapped tables, the slots and the service list after a mass failure, and what the offer of
a notification can do. -/

namespace Sys2Proof.Machine

/-! ### Tables -/

theorem mapVec_congr {α β : Type} {n : Nat} {f g : α → β} {v : Vector α n} (h : ∀ (i : Nat) (hi : i < n), f v[i] = g v[i]) :
    mapVec f v = mapVec g v := by
  apply Vector.ext
  intro i hi
  simp [h i hi]

@[simp] theorem setStations_mapVec_station (s : State) (f : Station → Station) (n : StationId) :
    (s.setStations (mapVec f s.stations)).station n = f (s.station n) := by
  simp [State.station, State.setStations]

@[simp] theorem setSlots_mapVec_slot (s : State) (f : Slot → Slot) (i : SlotId) :
    (s.setSlots (mapVec f s.slots)).slot i = f (s.slot i) := by
  simp [State.slot, State.setSlots]

theorem mem_allStations (n : StationId) : n ∈ allStations := by simp [allStations]

theorem allStations_pairwise : allStations.Pairwise (fun a b => a < b) := List.pairwise_lt_finRange 31

/-! ### Mass failures -/

theorem failSlots_slot (p : Slot → Bool) (o : SlotOutcome) (t : Stamp) (s : State) (i : SlotId) :
    (failSlots p o t s).slot i =
      if p (s.slot i) = true ∧ (s.slot i).waitingForService = true then ((s.slot i).fail o).stamped t else s.slot i := by
  have e : (failSlots p o t s).slot i =
      if (p (s.slot i) && (s.slot i).waitingForService) = true then ((s.slot i).fail o).stamped t else s.slot i :=
    mapVec_getElem _ s.slots i.val i.isLt
  rw [e]
  exact if_congr (by simp) rfl rfl

theorem failSlots_service (p : Slot → Bool) (o : SlotOutcome) (t : Stamp) (s : State) :
    (failSlots p o t s).service =
      s.service.filter (fun i => !(p (s.slot i) && (s.slot i).waitingForService)) := rfl

/-- A mass failure changes the slots and the service list alone. -/
theorem failSlots_frame (p : Slot → Bool) (o : SlotOutcome) (t : Stamp) (s : State) :
    failSlots p o t s =
      { s with slots := (failSlots p o t s).slots, service := (failSlots p o t s).service } := rfl

/-- The slot that a mass failure leaves when it fails it. -/
theorem fail_stamped (sl : Slot) (o : SlotOutcome) (t : Stamp) :
    (sl.fail o).stamped t = { sl with state := .failed, outcome := o, backoff := none, finishTime := t } := by
  simp [Slot.fail, Slot.stamped, Slot.finished]

/-! ### Notifications -/

/-- What an offer can do: nothing, a new tail, or an overrun. -/
theorem offer_cases (u : NotificationUnit) (n : Notification) :
    u.offer n = u ∨
      (u.queue.length < 16 ∧ u.offer n = { u with queue := u.queue ++ [n] }) ∨
      (16 ≤ u.queue.length ∧
        u.offer n = { u with nqovr := if u.nqovr = 255 then 255 else u.nqovr + 1, ovr := true }) := by
  unfold NotificationUnit.offer NotificationUnit.join Config.queueCapacity
  split
  · by_cases h : u.queue.length < 16
    · right; left; simp [h]
    · right; right; simp [h]; omega
  · exact Or.inl rfl

/-- An offer leaves the filter, its default and the threshold as they were. -/
theorem offer_settings (u : NotificationUnit) (n : Notification) :
    (u.offer n).filters = u.filters ∧ (u.offer n).fdefault = u.fdefault ∧ (u.offer n).nthresh = u.nthresh := by
  rcases offer_cases u n with h | ⟨_, h⟩ | ⟨_, h⟩ <;> rw [h] <;> exact ⟨rfl, rfl, rfl⟩

/-- An offer puts entries only behind those in the queue. -/
theorem offer_queue (u : NotificationUnit) (n : Notification) : ∃ l, (u.offer n).queue = u.queue ++ l := by
  rcases offer_cases u n with h | ⟨_, h⟩ | ⟨_, h⟩ <;> rw [h]
  · exact ⟨[], by simp⟩
  · exact ⟨[n], rfl⟩
  · exact ⟨[], by simp⟩

theorem offer_queue_length (u : NotificationUnit) (n : Notification) (h : u.queue.length ≤ 16) :
    (u.offer n).queue.length ≤ 16 := by
  rcases offer_cases u n with e | ⟨_, e⟩ | ⟨_, e⟩ <;> rw [e]
  · exact h
  · simp; omega
  · exact h

end Sys2Proof.Machine
end

