-- ==== Sys2Proof/Laws/Exec.lean ====
section
/-! SUPPORT. What the guards of /RESET and CLK do, and which guard stands before the effect of each command. -/

namespace Sys2Proof.Machine

theorem hostAccess_of_released {s : State} (f : State → State) (h : s.inReset = false) : hostAccess f s = f s := by
  simp [hostAccess, h]

theorem hostAccess_of_reset {s : State} (f : State → State) (h : s.inReset = true) : hostAccess f s = s := by
  simp [hostAccess, h]

theorem linkEvent_of_running {s : State} (f : State → State) (h : s.inReset = false) (hc : s.clkRunning = true) :
    linkEvent f s = f s := by simp [linkEvent, h, hc]

theorem linkEvent_of_stopped {s : State} (f : State → State) (h : s.inReset = true ∨ s.clkRunning = false) :
    linkEvent f s = s := by rcases h with h | h <;> simp [linkEvent, h]

/-- A host access is one function under the guard of /RESET, whatever the state. -/
theorem exec_of_isHostAccess {c : Instr} (h : c.isHostAccess = true) :
    ∃ f : State → State, ∀ s, exec c s = .next (hostAccess f s) := by
  cases c <;> first | exact ⟨_, fun _ => rfl⟩ | (exfalso; revert h; simp [Instr.isHostAccess])

/-- An event of the line, of a timer, of the scheduler or of the counter is one function under the guards of /RESET
and CLK, whatever the state. -/
theorem exec_of_isLinkEvent {c : Instr} (h : c.isLinkEvent = true) :
    ∃ f : State → State, ∀ s, exec c s = .next (linkEvent f s) := by
  cases c <;> first | exact ⟨_, fun _ => rfl⟩ | (exfalso; revert h; simp [Instr.isLinkEvent, Instr.isHostAccess, Instr.isInput])

/-- A property of single states that the effect keeps is kept under the guard. -/
theorem hostAccess_keeps {P : State → Prop} {f : State → State} (hf : ∀ s, P s → P (f s)) {s : State} (h : P s) :
    P (hostAccess f s) := by
  unfold hostAccess
  split
  · exact h
  · exact hf s h

theorem linkEvent_keeps {P : State → Prop} {f : State → State} (hf : ∀ s, P s → P (f s)) {s : State} (h : P s) :
    P (linkEvent f s) := by
  unfold linkEvent
  split
  · exact h
  · exact hf s h

/-- Issuing a command leaves CMDRES and what the command's effect leaves. -/
theorem issue_eq (k : CommandCode) (s : State) :
    issue k s = (commandEffect k s).1.setCmdres (commandEffect k s).2 := rfl

/-- A write to CMD issues the command the byte names, or leaves BADARG. -/
theorem writeCmd_cases (v : Byte) (s : State) :
    (∃ k, CommandCode.ofByte? v = some k ∧ writeCmd v s = issue k s) ∨
      (CommandCode.ofByte? v = none ∧ writeCmd v s = s.setCmdres .badArg) := by
  unfold writeCmd
  cases h : CommandCode.ofByte? v with
  | none => exact Or.inr ⟨rfl, rfl⟩
  | some k => exact Or.inl ⟨k, rfl, rfl⟩

theorem ofByte?_code (k : CommandCode) : CommandCode.ofByte? k.code = some k := by cases k <;> decide

end Sys2Proof.Machine
end

