-- ==== Sys2Proof/Laws/Rounds.lean ====
section
/-! SUPPORT. What a round start, the end of discovery and the removal of an entry leave, what a build holds, and which
slot a choice takes. -/

namespace Sys2Proof.Machine

/-! ### Round starts -/

/-- A round start changes the round counter, the round timer and the round list alone. -/
theorem startRound_eq (s : State) :
    startRound s =
      { s with
        sched :=
          { s.sched with
            roundCounter := s.sched.roundCounter + 1
            roundTimer := s.roundTimerFor (s.buildRound (s.sched.roundCounter + 1))
            roundList := s.buildRound (s.sched.roundCounter + 1) } } := rfl

theorem startRound_roundList (s : State) :
    (startRound s).sched.roundList = s.buildRound (s.sched.roundCounter + 1) := rfl

theorem startRound_roundTimer (s : State) :
    (startRound s).sched.roundTimer = s.roundTimerFor (s.buildRound (s.sched.roundCounter + 1)) := rfl

theorem roundTimerFor_ne_stopped (s : State) (l : List RoundItem) : s.roundTimerFor l ≠ .stopped := by
  unfold State.roundTimerFor
  split
  · split <;> simp
  · simp

theorem startRound_not_due (s : State) : (startRound s).sched.roundDue = false := by
  unfold Scheduler.roundDue
  rw [startRound_roundTimer, startRound_roundList]
  generalize s.buildRound _ = l
  unfold State.roundTimerFor
  split
  · split <;> simp_all [RoundTimer.elapsed]
  · simp [RoundTimer.elapsed]

/-- The link as it enters RUNNING at the end of discovery. -/
theorem enterRunning_eq (s : State) :
    enterRunning s = startRound { s with link := { s.link with state := .running, link := true } } := rfl

/-- What can follow when an entry has left a list. -/
theorem afterRemoval_cases (s : State) :
    (s.link.state = .starting ∧ s.sched.discovery = [] ∧
      afterRemoval s = startRound { s with link := { s.link with state := .running, link := true } }) ∨
    (s.link.state = .running ∧ s.sched.roundDue = true ∧ afterRemoval s = startRound s) ∨
    (¬(s.link.state = .starting ∧ s.sched.discovery = []) ∧ ¬(s.link.state = .running ∧ s.sched.roundDue = true) ∧
      afterRemoval s = s) := by
  unfold afterRemoval completeDiscovery startRoundIfDue
  by_cases h : s.link.state = .starting ∧ s.sched.discovery = []
  · left
    rw [if_pos h, enterRunning_eq, startRound_not_due]
    exact ⟨h.1, h.2, by simp⟩
  · right
    rw [if_neg h]
    by_cases h2 : s.link.state = .running ∧ s.sched.roundDue = true
    · left; rw [if_pos h2]; exact ⟨h2.1, h2.2, rfl⟩
    · right; rw [if_neg h2]; exact ⟨h, h2, rfl⟩

/-- What follows a removal touches only the link state, LINK, and the round's fields of the scheduler. -/
theorem afterRemoval_frame (s : State) :
    afterRemoval s =
      { s with
        link := { s.link with state := (afterRemoval s).link.state, link := (afterRemoval s).link.link }
        sched :=
          { s.sched with
            roundCounter := (afterRemoval s).sched.roundCounter
            roundTimer := (afterRemoval s).sched.roundTimer
            roundList := (afterRemoval s).sched.roundList } } := by
  rcases afterRemoval_cases s with ⟨_, _, h⟩ | ⟨_, _, h⟩ | ⟨_, _, h⟩ <;> rw [h] <;> rfl

@[simp] theorem afterRemoval_host (s : State) : (afterRemoval s).host = s.host := by rw [afterRemoval_frame]
@[simp] theorem afterRemoval_engine (s : State) : (afterRemoval s).engine = s.engine := by rw [afterRemoval_frame]
@[simp] theorem afterRemoval_receiver (s : State) : (afterRemoval s).receiver = s.receiver := by
  rw [afterRemoval_frame]
@[simp] theorem afterRemoval_stations (s : State) : (afterRemoval s).stations = s.stations := by
  rw [afterRemoval_frame]
@[simp] theorem afterRemoval_slots (s : State) : (afterRemoval s).slots = s.slots := by rw [afterRemoval_frame]
@[simp] theorem afterRemoval_service (s : State) : (afterRemoval s).service = s.service := by rw [afterRemoval_frame]
@[simp] theorem afterRemoval_notes (s : State) : (afterRemoval s).notes = s.notes := by rw [afterRemoval_frame]
@[simp] theorem afterRemoval_time (s : State) : (afterRemoval s).time = s.time := by rw [afterRemoval_frame]
@[simp] theorem afterRemoval_clock (s : State) : (afterRemoval s).clock = s.clock := by rw [afterRemoval_frame]
@[simp] theorem afterRemoval_inReset (s : State) : (afterRemoval s).inReset = s.inReset := by rw [afterRemoval_frame]
@[simp] theorem afterRemoval_clkRunning (s : State) : (afterRemoval s).clkRunning = s.clkRunning := by
  rw [afterRemoval_frame]
@[simp] theorem afterRemoval_pending (s : State) : (afterRemoval s).pending = s.pending := by rw [afterRemoval_frame]
@[simp] theorem afterRemoval_config (s : State) : (afterRemoval s).link.config = s.link.config := by
  rw [afterRemoval_frame]
@[simp] theorem afterRemoval_lineErrors (s : State) : (afterRemoval s).link.lineErrors = s.link.lineErrors := by
  rw [afterRemoval_frame]
@[simp] theorem afterRemoval_wrej (s : State) : (afterRemoval s).link.wrej = s.link.wrej := by
  rw [afterRemoval_frame]
@[simp] theorem afterRemoval_discovery (s : State) : (afterRemoval s).sched.discovery = s.sched.discovery := by
  rw [afterRemoval_frame]
@[simp] theorem afterRemoval_burstCounter (s : State) :
    (afterRemoval s).sched.burstCounter = s.sched.burstCounter := by rw [afterRemoval_frame]
@[simp] theorem afterRemoval_rlate (s : State) : (afterRemoval s).sched.rlate = s.sched.rlate := by
  rw [afterRemoval_frame]
@[simp] theorem afterRemoval_station (s : State) (n : StationId) : (afterRemoval s).station n = s.station n := by
  simp [State.station]
@[simp] theorem afterRemoval_slot (s : State) (i : SlotId) : (afterRemoval s).slot i = s.slot i := by
  simp [State.slot]

/-- What follows a removal does not look at the host interface unit. -/
theorem afterRemoval_setHost (s : State) (h : HostUnit) : afterRemoval (s.setHost h) = (afterRemoval s).setHost h := by
  rcases afterRemoval_cases s with ⟨h1, h2, e⟩ | ⟨h1, h2, e⟩ | ⟨h1, h2, e⟩ <;> rw [e] <;>
    rcases afterRemoval_cases (s.setHost h) with ⟨g1, g2, f⟩ | ⟨g1, g2, f⟩ | ⟨g1, g2, f⟩ <;> rw [f] <;>
    first | rfl | (exfalso; simp_all)

/-! ### The build of a round -/

theorem mem_buildRound {s : State} {c : BitVec 16} {i : RoundItem} :
    i ∈ s.buildRound c ↔ roundItem? s.link.config c i.station (s.station i.station) = some i := by
  have key : ∀ n, roundItem? s.link.config c n (s.station n) = some i → n = i.station := by
    intro n h
    unfold roundItem? at h
    repeat' split at h
    all_goals first | (injection h with h; rw [← h]) | simp at h
  simp only [State.buildRound, List.mem_filterMap]
  constructor
  · rintro ⟨n, _, h⟩
    rw [← key n h]
    exact h
  · intro h
    exact ⟨i.station, mem_allStations _, h⟩

/-- R108: a build names distinct stations in ascending address order. -/
theorem buildRound_pairwise (s : State) (c : BitVec 16) :
    ((s.buildRound c).map (fun i => i.station)).Pairwise (fun a b => a < b) := by
  have key : ∀ n i, roundItem? s.link.config c n (s.station n) = some i → n = i.station := by
    intro n i h
    unfold roundItem? at h
    repeat' split at h
    all_goals first | (injection h with h; rw [← h]) | simp at h
  rw [List.pairwise_map]
  unfold State.buildRound
  rw [List.pairwise_filterMap]
  refine allStations_pairwise.imp ?_
  intro a b hab x hx y hy
  rw [← key a x hx, ← key b y hy]
  exact hab

/-! ### The chosen slot -/

theorem mostUrgent_mem {s : State} {l : List SlotId} {i : SlotId} (h : s.mostUrgent l = some i) : i ∈ l := by
  induction l generalizing i with
  | nil => simp [State.mostUrgent] at h
  | cons a rest ih =>
    unfold State.mostUrgent at h
    split at h
    · simp at h; simp [h]
    · rename_i j hj
      split at h
      · simp at h; simp [h]
      · simp at h; subst h; exact List.mem_cons_of_mem _ (ih hj)

theorem mostUrgent_eq_none {s : State} {l : List SlotId} : s.mostUrgent l = none ↔ l = [] := by
  cases l with
  | nil => simp [State.mostUrgent]
  | cons a rest =>
    unfold State.mostUrgent
    split
    · simp
    · split <;> simp

/-- R76: the list splits at the chosen slot; every slot has no lower priority value, and every slot before it a
strictly higher one. -/
theorem mostUrgent_spec {s : State} {l : List SlotId} {i : SlotId} (h : s.mostUrgent l = some i) :
    ∃ before after, l = before ++ i :: after ∧ (∀ j ∈ before, (s.slot i).priority < (s.slot j).priority) ∧
      ∀ j ∈ after, (s.slot i).priority ≤ (s.slot j).priority := by
  induction l generalizing i with
  | nil => simp [State.mostUrgent] at h
  | cons a rest ih =>
    unfold State.mostUrgent at h
    split at h
    · rename_i hn
      simp at h
      have : rest = [] := mostUrgent_eq_none.mp hn
      exact ⟨[], [], by simp [h, this], by simp, by simp⟩
    · rename_i j hj
      obtain ⟨b, c, e, hb, hc⟩ := ih hj
      split at h
      · rename_i hle
        simp at h
        subst h
        refine ⟨[], rest, rfl, by simp, ?_⟩
        intro k hk
        rw [e] at hk
        simp at hk
        rcases hk with hk | rfl | hk
        · have := hb k hk; simp only [BitVec.le_def, BitVec.lt_def] at *; omega
        · exact hle
        · have := hc k hk; simp only [BitVec.le_def, BitVec.lt_def] at *; omega
      · rename_i hle
        simp at h
        subst h
        refine ⟨a :: b, c, by simp [e], ?_, hc⟩
        intro k hk
        simp at hk
        rcases hk with rfl | hk
        · simp only [BitVec.le_def, BitVec.lt_def] at *; omega
        · exact hb k hk

/-- R75: the eligible slots are those that pass the test with the slots before them. -/
theorem mem_eligibleAfter {s : State} {earlier l : List SlotId} {i : SlotId} :
    i ∈ s.eligibleAfter earlier l ↔
      ∃ before after, l = before ++ i :: after ∧ s.eligible (earlier ++ before) i = true := by
  induction l generalizing earlier with
  | nil => simp [State.eligibleAfter]
  | cons a rest ih =>
    have step : (∃ before after, a :: rest = before ++ i :: after ∧ s.eligible (earlier ++ before) i = true) ↔
        (i = a ∧ s.eligible earlier a = true) ∨
          ∃ before after, rest = before ++ i :: after ∧ s.eligible (earlier ++ [a] ++ before) i = true := by
      constructor
      · rintro ⟨b, c, e, h⟩
        cases b with
        | nil => simp at e; left; exact ⟨e.1.symm, by simpa [e.1] using h⟩
        | cons x b =>
          simp at e
          right
          exact ⟨b, c, e.2, by simpa [e.1] using h⟩
      · rintro (⟨rfl, h⟩ | ⟨b, c, e, h⟩)
        · exact ⟨[], rest, rfl, by simpa using h⟩
        · exact ⟨a :: b, c, by simp [e], by simpa using h⟩
    simp only [State.eligibleAfter]
    rw [step, ← ih]
    split
    · rename_i h; simp [h]
    · rename_i h; simp [h]

/-- R75: the eligible slots of a service list in two parts. -/
theorem eligibleAfter_append (s : State) (earlier a b : List SlotId) :
    s.eligibleAfter earlier (a ++ b) = s.eligibleAfter earlier a ++ s.eligibleAfter (earlier ++ a) b := by
  induction a generalizing earlier with
  | nil => simp [State.eligibleAfter]
  | cons x a ih =>
    simp only [List.cons_append, State.eligibleAfter, ih]
    split <;> simp

/-- R75: a place in the list of eligible slots is a place in the service list. -/
theorem eligibleAfter_split {s : State} {earlier l b a : List SlotId} {i : SlotId}
    (h : s.eligibleAfter earlier l = b ++ i :: a) :
    ∃ p q, l = p ++ i :: q ∧ s.eligible (earlier ++ p) i = true ∧ s.eligibleAfter earlier p = b ∧
      s.eligibleAfter (earlier ++ p ++ [i]) q = a := by
  induction l generalizing earlier b with
  | nil => simp [State.eligibleAfter] at h
  | cons x l ih =>
    simp only [State.eligibleAfter] at h
    split at h
    · rename_i hx
      cases b with
      | nil =>
        simp at h
        exact ⟨[], l, by simp [h.1], by simpa [h.1] using hx, rfl, by simpa [h.1] using h.2⟩
      | cons y b =>
        simp at h
        obtain ⟨p, q, e, h1, h2, h3⟩ := ih h.2
        exact ⟨x :: p, q, by simp [e], by simpa using h1, by rw [← h.1]; simp [State.eligibleAfter, hx, h2],
          by simpa using h3⟩
    · rename_i hx
      obtain ⟨p, q, e, h1, h2, h3⟩ := ih h
      exact ⟨x :: p, q, by simp [e], by simpa using h1, by simp [State.eligibleAfter, hx, h2], by simpa using h3⟩

theorem chosenSlot?_eq_none {s : State} : s.chosenSlot? = none ↔ s.eligibleSlots = [] := mostUrgent_eq_none

end Sys2Proof.Machine
end

