-- ==== Sys2Proof/Laws/Report.lean ====
section
/-! SUPPORT. What each step of a report (R37) changes, and that it leaves everything else as it was. -/

namespace Sys2Proof.Machine

/-! ### Step 1 -/

/-- The station manager's step on a target. -/
theorem stationStep_eq {r : Report} {s : State} {n : StationId} (h : r.job.station? = some n) :
    stationStep r s =
      match ((s.station n).report r).2 with
      | none => (s.setStation n ((s.station n).report r).1, none)
      | some t =>
        (((s.setStation n ((s.station n).report r).1).offer (t.note n ((s.station n).report r).1 r.endTime)).handToScheduler
          n t, some t) := by
  rcases hp : (s.station n).report r with ⟨st, tr⟩
  cases tr <;> simp [stationStep, h, hp]

theorem stationStep_no_target {r : Report} {s : State} (h : r.job.station? = none) : stationStep r s = (s, none) := by
  unfold stationStep
  rw [h]

theorem stationStep_transition {r : Report} {s : State} {n : StationId} (h : r.job.station? = some n) :
    (stationStep r s).2 = ((s.station n).report r).2 := by
  rw [stationStep_eq h]
  split <;> simp_all

theorem handToScheduler_frame (s : State) (n : StationId) (t : Transition) :
    s.handToScheduler n t =
      { s with sched := { s.sched with roundList := (s.handToScheduler n t).sched.roundList } } := by
  unfold State.handToScheduler
  split <;> rfl

/-- Step 1 changes the target's entry, the notifications and the round list alone. -/
theorem stationStep_frame (r : Report) (s : State) :
    (stationStep r s).1 =
      { s with
        stations := (stationStep r s).1.stations
        notes := (stationStep r s).1.notes
        sched := { s.sched with roundList := (stationStep r s).1.sched.roundList } } := by
  cases h : r.job.station? with
  | none => rw [stationStep_no_target h]
  | some n =>
    rw [stationStep_eq h]
    split
    · rfl
    · rw [handToScheduler_frame]; rfl

theorem stationStep_station {r : Report} {s : State} {n : StationId} (h : r.job.station? = some n) (m : StationId) :
    (stationStep r s).1.station m = if n = m then ((s.station n).report r).1 else s.station m := by
  rw [stationStep_eq h]
  split
  · exact setStation_station s n m _
  · rw [handToScheduler_frame]
    exact setStation_station s n m _

theorem stationStep_roundList {r : Report} {s : State} {n : StationId} (h : r.job.station? = some n) :
    (stationStep r s).1.sched.roundList =
      if ((s.station n).report r).2 = some .isolated ∨ ((s.station n).report r).2 = some .lost then
        s.sched.roundList.filter (fun i => i.station ≠ n)
      else s.sched.roundList := by
  rw [stationStep_eq h]
  split
  · simp_all
  · rename_i t ht
    unfold State.handToScheduler
    rw [ht]
    by_cases hx : t = .isolated ∨ t = .lost
    · rw [if_pos hx, if_pos (by simpa using hx)]; rfl
    · rw [if_neg hx, if_neg (by simpa using hx)]; rfl

theorem stationStep_sched {r : Report} {s : State} {n : StationId} (h : r.job.station? = some n) :
    (stationStep r s).1.sched =
      if ((s.station n).report r).2 = some .isolated ∨ ((s.station n).report r).2 = some .lost then
        { s.sched with roundList := s.sched.roundList.filter (fun i => i.station ≠ n) }
      else s.sched := by
  rw [stationStep_frame]
  dsimp only
  rw [stationStep_roundList h]
  split <;> rfl

theorem stationStep_notes {r : Report} {s : State} {n : StationId} (h : r.job.station? = some n) :
    (stationStep r s).1.notes =
      match ((s.station n).report r).2 with
      | none => s.notes
      | some t => s.notes.offer (t.note n ((s.station n).report r).1 r.endTime) := by
  rw [stationStep_eq h]
  split <;> rename_i hx
  · rfl
  · rw [handToScheduler_frame]; rfl

/-! ### Step 2 -/

/-- Step 2 changes the target's entry and the notifications alone. -/
theorem attentionStep_frame (r : Report) (s : State) :
    attentionStep r s =
      { s with stations := (attentionStep r s).stations, notes := (attentionStep r s).notes } := by
  unfold attentionStep takeAttention
  dsimp only
  repeat' split
  all_goals rfl

theorem attentionStep_other {r : Report} {s : State} {m : StationId} (h : r.job.station? ≠ some m) :
    (attentionStep r s).station m = s.station m := by
  cases e : r.job.station? with
  | none => simp [attentionStep, e]
  | some n =>
    have hnm : n ≠ m := fun x => h (by rw [e, x])
    unfold attentionStep takeAttention
    rw [e]
    dsimp only
    repeat' split
    all_goals simp [setStation_station, hnm]

/-! ### Step 3 -/

theorem massFailure_frame (n : StationId) (tr : Option Transition) (t : Stamp) (s : State) :
    massFailure n tr t s =
      { s with slots := (massFailure n tr t s).slots, service := (massFailure n tr t s).service } := by
  unfold massFailure
  split <;> rfl

theorem applyToSlot_frame (r : Report) (t : Option Transition) (i : SlotId) (n : StationId) (s : State) :
    applyToSlot r t i n s =
      { s with
        stations := (applyToSlot r t i n s).stations
        slots := (applyToSlot r t i n s).slots
        service := (applyToSlot r t i n s).service } := by
  unfold applyToSlot
  dsimp only
  split <;> split <;> rfl

/-- Step 3 changes the slots, the service list and the target's resync flag alone. -/
theorem slotStep_frame (r : Report) (t : Option Transition) (s : State) :
    slotStep r t s =
      { s with
        stations := (slotStep r t s).stations
        slots := (slotStep r t s).slots
        service := (slotStep r t s).service } := by
  unfold slotStep
  dsimp only
  split <;> split <;> first | rfl | (rw [massFailure_frame, applyToSlot_frame]) | (rw [massFailure_frame]) | (rw [applyToSlot_frame])

theorem applyToSlot_station (r : Report) (t : Option Transition) (i : SlotId) (n m : StationId) (s : State) :
    (applyToSlot r t i n s).station m = s.station m ∨
      (n = m ∧ (applyToSlot r t i n s).station m = { s.station m with resync := true }) := by
  unfold applyToSlot State.setResync
  dsimp only
  repeat' split
  all_goals first | (left; rfl) | skip
  all_goals
    by_cases h : n = m
    · right; subst h; simp
    · left; simp [setStation_station, h]

theorem slotStep_station (r : Report) (t : Option Transition) (s : State) (m : StationId) :
    (slotStep r t s).station m = s.station m ∨
      (r.job.station? = some m ∧ (slotStep r t s).station m = { s.station m with resync := true }) := by
  unfold slotStep
  cases hj : r.job with
  | request i k n g =>
    have e : ∀ u : State, (massFailure n t r.endTime u).station m = u.station m := by
      intro u; rw [massFailure_frame]; rfl
    simp only [Job.station?, e]
    rcases applyToSlot_station r t i n m s with h | ⟨h, h'⟩
    · exact Or.inl h
    · exact Or.inr ⟨by rw [h], h'⟩
  | timeMark => left; rfl
  | probe p n => left; simp only [Job.station?]; rw [massFailure_frame]; rfl
  | poll n => left; simp only [Job.station?]; rw [massFailure_frame]; rfl
  | attnAck n => left; simp only [Job.station?]; rw [massFailure_frame]; rfl

/-! ### Step 4 -/

/-- R59: what a disable leaves in the entry, the lists, the slots and the service list. -/
theorem applyDisable_eq (n : StationId) (t : Stamp) (s : State) :
    applyDisable n t s =
      { s with
        stations := s.stations.set n (s.station n).disable
        sched :=
          { s.sched with
            roundList := s.sched.roundList.filter (fun i => i.station ≠ n)
            discovery := s.sched.discovery.filter (fun m => m ≠ n) }
        slots :=
          mapVec
            (fun sl =>
              if sl.station = address n ∧ (sl.state = .queued ∨ sl.state = .waiting) then
                { sl with state := .failed, outcome := .stationDisabled, backoff := none, finishTime := t }
              else sl)
            s.slots
        service :=
          s.service.filter
            (fun i => ¬((s.slot i).station = address n ∧ ((s.slot i).state = .queued ∨ (s.slot i).state = .waiting))) } := by
  simp only [applyDisable, failStationSlots, failSlots, State.setSlots, State.setService, State.setStation,
    State.setStations, State.removeRoundItem, State.removeDiscoveryEntry, State.setSched]
  congr 1
  · congr 1
    funext sl
    simp [Slot.isFor, Slot.waitingForService, Slot.fail, Slot.stamped, Slot.finished]
  · apply List.filter_congr
    intro x _
    simp [Slot.isFor, Slot.waitingForService]
    rfl

theorem applyDisable_station (n : StationId) (t : Stamp) (s : State) (m : StationId) :
    (applyDisable n t s).station m = if n = m then (s.station n).disable else s.station m :=
  setStation_station s n m _

theorem disableStep_cases (r : Report) (s : State) :
    disableStep r s = s ∨
      ∃ n, r.job.station? = some n ∧ (s.station n).disablePending = true ∧
        disableStep r s = applyDisable n r.endTime s := by
  unfold disableStep
  split
  · rename_i n hn
    split
    · rename_i h; exact Or.inr ⟨n, hn, h, rfl⟩
    · exact Or.inl rfl
  · exact Or.inl rfl

/-- Step 4 changes the stations, the lists, the slots and the service list alone. -/
theorem disableStep_frame (r : Report) (s : State) :
    disableStep r s =
      { s with
        stations := (disableStep r s).stations
        sched :=
          { s.sched with
            roundList := (disableStep r s).sched.roundList, discovery := (disableStep r s).sched.discovery }
        slots := (disableStep r s).slots
        service := (disableStep r s).service } := by
  rcases disableStep_cases r s with h | ⟨n, _, _, h⟩ <;> rw [h]
  rw [applyDisable_eq]

/-! ### Steps 5 and 6 -/

/-- R160: the one event of entering STOPPED. -/
theorem enterStopped_eq (t : Stamp) (s : State) :
    enterStopped t s =
      { s with
        link := { s.link with state := .stopped, link := true }
        sched := { s.sched with roundList := [], discovery := [], roundTimer := .stopped }
        time := { s.time with interval := none, pendingMark := false }
        slots :=
          mapVec
            (fun sl =>
              if sl.state = .queued ∨ sl.state = .waiting then
                { sl with state := .failed, outcome := .stopped, backoff := none, finishTime := t }
              else sl)
            s.slots
        service := s.service.filter (fun i => (s.slot i).state ≠ .queued ∧ (s.slot i).state ≠ .waiting) } := by
  simp only [enterStopped, restScheduler, failSlots, State.setSlots, State.setService, State.setLinkState,
    State.setLinkFlag, State.setLink, State.setSched, State.setTime, Scheduler.rest, TimeBase.rest]
  congr 1
  · congr 1
    funext sl
    simp [Slot.waitingForService, Slot.fail, Slot.stamped, Slot.finished]
  · apply List.filter_congr
    intro x _
    simp [Slot.waitingForService]
    rfl

/-- R161: the one event of entering FAULTED. -/
theorem enterFaulted_eq (s : State) :
    enterFaulted s =
      { s with
        link := { s.link with state := .faulted, link := true }
        sched := { s.sched with roundList := [], discovery := [], roundTimer := .stopped }
        time := { s.time with interval := none, pendingMark := false } } := rfl

/-- Step 5 changes the link unit, the scheduler's lists and timer, the time base's timer and mark, the slots and the
service list alone. -/
theorem linkStep_frame (r : Report) (s : State) :
    linkStep r s =
      { s with
        link :=
          { s.link with
            state := (linkStep r s).link.state
            lineErrors := countAfter s.link.lineErrors r.outcome
            link := (linkStep r s).link.link }
        sched :=
          { s.sched with
            roundList := (linkStep r s).sched.roundList
            discovery := (linkStep r s).sched.discovery
            roundTimer := (linkStep r s).sched.roundTimer }
        time :=
          { s.time with
            interval := (linkStep r s).time.interval, pendingMark := (linkStep r s).time.pendingMark }
        slots := (linkStep r s).slots
        service := (linkStep r s).service } := by
  unfold linkStep
  dsimp only
  repeat' split
  all_goals rfl

theorem timeStep_frame (r : Report) (s : State) :
    timeStep r s = { s with time := { s.time with pendingMark := (timeStep r s).time.pendingMark } } := by
  unfold timeStep
  split <;> rfl

/-- What leaves a list at the end of an exchange. -/
theorem leaveList_frame (j : Job) (s : State) :
    leaveList j s =
      { s with
        sched :=
          { s.sched with
            roundList := (leaveList j s).sched.roundList, discovery := (leaveList j s).sched.discovery } } := by
  unfold leaveList State.leaveDiscovery State.leaveRoundList
  repeat' split
  all_goals rfl

theorem leaveList_roundList (j : Job) (s : State) :
    (leaveList j s).sched.roundList = s.sched.roundList ∨
      (leaveList j s).sched.roundList = s.sched.roundList.tail := by
  unfold leaveList State.leaveDiscovery State.leaveRoundList
  repeat' split
  all_goals simp_all

theorem leaveList_discovery (j : Job) (s : State) :
    (leaveList j s).sched.discovery = s.sched.discovery ∨
      (leaveList j s).sched.discovery = s.sched.discovery.tail := by
  unfold leaveList State.leaveDiscovery State.leaveRoundList
  repeat' split
  all_goals simp_all

/-! ### The fields that each step leaves -/

@[simp] theorem stationStep_host (r : Report) (s : State) :
    (stationStep r s).1.host = s.host := by rw [stationStep_frame]
@[simp] theorem stationStep_link (r : Report) (s : State) :
    (stationStep r s).1.link = s.link := by rw [stationStep_frame]
@[simp] theorem stationStep_engine (r : Report) (s : State) :
    (stationStep r s).1.engine = s.engine := by rw [stationStep_frame]
@[simp] theorem stationStep_receiver (r : Report) (s : State) :
    (stationStep r s).1.receiver = s.receiver := by rw [stationStep_frame]
@[simp] theorem stationStep_slots (r : Report) (s : State) :
    (stationStep r s).1.slots = s.slots := by rw [stationStep_frame]
@[simp] theorem stationStep_service (r : Report) (s : State) :
    (stationStep r s).1.service = s.service := by rw [stationStep_frame]
@[simp] theorem stationStep_time (r : Report) (s : State) :
    (stationStep r s).1.time = s.time := by rw [stationStep_frame]
@[simp] theorem stationStep_clock (r : Report) (s : State) :
    (stationStep r s).1.clock = s.clock := by rw [stationStep_frame]
@[simp] theorem stationStep_inReset (r : Report) (s : State) :
    (stationStep r s).1.inReset = s.inReset := by rw [stationStep_frame]
@[simp] theorem stationStep_clkRunning (r : Report) (s : State) :
    (stationStep r s).1.clkRunning = s.clkRunning := by rw [stationStep_frame]
@[simp] theorem stationStep_pending (r : Report) (s : State) :
    (stationStep r s).1.pending = s.pending := by rw [stationStep_frame]
@[simp] theorem stationStep_sched_roundTimer (r : Report) (s : State) :
    (stationStep r s).1.sched.roundTimer = s.sched.roundTimer := by rw [stationStep_frame]
@[simp] theorem stationStep_sched_roundCounter (r : Report) (s : State) :
    (stationStep r s).1.sched.roundCounter = s.sched.roundCounter := by rw [stationStep_frame]
@[simp] theorem stationStep_sched_burstCounter (r : Report) (s : State) :
    (stationStep r s).1.sched.burstCounter = s.sched.burstCounter := by rw [stationStep_frame]
@[simp] theorem stationStep_sched_discovery (r : Report) (s : State) :
    (stationStep r s).1.sched.discovery = s.sched.discovery := by rw [stationStep_frame]
@[simp] theorem stationStep_sched_rlate (r : Report) (s : State) :
    (stationStep r s).1.sched.rlate = s.sched.rlate := by rw [stationStep_frame]
@[simp] theorem stationStep_slot (r : Report) (s : State) (i : SlotId) :
    (stationStep r s).1.slot i = s.slot i := by rw [stationStep_frame]; rfl

@[simp] theorem attentionStep_host (r : Report) (s : State) :
    (attentionStep r s).host = s.host := by rw [attentionStep_frame]
@[simp] theorem attentionStep_link (r : Report) (s : State) :
    (attentionStep r s).link = s.link := by rw [attentionStep_frame]
@[simp] theorem attentionStep_sched (r : Report) (s : State) :
    (attentionStep r s).sched = s.sched := by rw [attentionStep_frame]
@[simp] theorem attentionStep_engine (r : Report) (s : State) :
    (attentionStep r s).engine = s.engine := by rw [attentionStep_frame]
@[simp] theorem attentionStep_receiver (r : Report) (s : State) :
    (attentionStep r s).receiver = s.receiver := by rw [attentionStep_frame]
@[simp] theorem attentionStep_slots (r : Report) (s : State) :
    (attentionStep r s).slots = s.slots := by rw [attentionStep_frame]
@[simp] theorem attentionStep_service (r : Report) (s : State) :
    (attentionStep r s).service = s.service := by rw [attentionStep_frame]
@[simp] theorem attentionStep_time (r : Report) (s : State) :
    (attentionStep r s).time = s.time := by rw [attentionStep_frame]
@[simp] theorem attentionStep_clock (r : Report) (s : State) :
    (attentionStep r s).clock = s.clock := by rw [attentionStep_frame]
@[simp] theorem attentionStep_inReset (r : Report) (s : State) :
    (attentionStep r s).inReset = s.inReset := by rw [attentionStep_frame]
@[simp] theorem attentionStep_clkRunning (r : Report) (s : State) :
    (attentionStep r s).clkRunning = s.clkRunning := by rw [attentionStep_frame]
@[simp] theorem attentionStep_pending (r : Report) (s : State) :
    (attentionStep r s).pending = s.pending := by rw [attentionStep_frame]
@[simp] theorem attentionStep_slot (r : Report) (s : State) (i : SlotId) :
    (attentionStep r s).slot i = s.slot i := by rw [attentionStep_frame]; rfl

@[simp] theorem slotStep_host (r : Report) (t : Option Transition) (s : State) :
    (slotStep r t s).host = s.host := by rw [slotStep_frame]
@[simp] theorem slotStep_link (r : Report) (t : Option Transition) (s : State) :
    (slotStep r t s).link = s.link := by rw [slotStep_frame]
@[simp] theorem slotStep_sched (r : Report) (t : Option Transition) (s : State) :
    (slotStep r t s).sched = s.sched := by rw [slotStep_frame]
@[simp] theorem slotStep_engine (r : Report) (t : Option Transition) (s : State) :
    (slotStep r t s).engine = s.engine := by rw [slotStep_frame]
@[simp] theorem slotStep_receiver (r : Report) (t : Option Transition) (s : State) :
    (slotStep r t s).receiver = s.receiver := by rw [slotStep_frame]
@[simp] theorem slotStep_notes (r : Report) (t : Option Transition) (s : State) :
    (slotStep r t s).notes = s.notes := by rw [slotStep_frame]
@[simp] theorem slotStep_time (r : Report) (t : Option Transition) (s : State) :
    (slotStep r t s).time = s.time := by rw [slotStep_frame]
@[simp] theorem slotStep_clock (r : Report) (t : Option Transition) (s : State) :
    (slotStep r t s).clock = s.clock := by rw [slotStep_frame]
@[simp] theorem slotStep_inReset (r : Report) (t : Option Transition) (s : State) :
    (slotStep r t s).inReset = s.inReset := by rw [slotStep_frame]
@[simp] theorem slotStep_clkRunning (r : Report) (t : Option Transition) (s : State) :
    (slotStep r t s).clkRunning = s.clkRunning := by rw [slotStep_frame]
@[simp] theorem slotStep_pending (r : Report) (t : Option Transition) (s : State) :
    (slotStep r t s).pending = s.pending := by rw [slotStep_frame]

@[simp] theorem disableStep_host (r : Report) (s : State) :
    (disableStep r s).host = s.host := by rw [disableStep_frame]
@[simp] theorem disableStep_link (r : Report) (s : State) :
    (disableStep r s).link = s.link := by rw [disableStep_frame]
@[simp] theorem disableStep_engine (r : Report) (s : State) :
    (disableStep r s).engine = s.engine := by rw [disableStep_frame]
@[simp] theorem disableStep_receiver (r : Report) (s : State) :
    (disableStep r s).receiver = s.receiver := by rw [disableStep_frame]
@[simp] theorem disableStep_notes (r : Report) (s : State) :
    (disableStep r s).notes = s.notes := by rw [disableStep_frame]
@[simp] theorem disableStep_time (r : Report) (s : State) :
    (disableStep r s).time = s.time := by rw [disableStep_frame]
@[simp] theorem disableStep_clock (r : Report) (s : State) :
    (disableStep r s).clock = s.clock := by rw [disableStep_frame]
@[simp] theorem disableStep_inReset (r : Report) (s : State) :
    (disableStep r s).inReset = s.inReset := by rw [disableStep_frame]
@[simp] theorem disableStep_clkRunning (r : Report) (s : State) :
    (disableStep r s).clkRunning = s.clkRunning := by rw [disableStep_frame]
@[simp] theorem disableStep_pending (r : Report) (s : State) :
    (disableStep r s).pending = s.pending := by rw [disableStep_frame]
@[simp] theorem disableStep_sched_roundTimer (r : Report) (s : State) :
    (disableStep r s).sched.roundTimer = s.sched.roundTimer := by rw [disableStep_frame]
@[simp] theorem disableStep_sched_roundCounter (r : Report) (s : State) :
    (disableStep r s).sched.roundCounter = s.sched.roundCounter := by rw [disableStep_frame]
@[simp] theorem disableStep_sched_burstCounter (r : Report) (s : State) :
    (disableStep r s).sched.burstCounter = s.sched.burstCounter := by rw [disableStep_frame]
@[simp] theorem disableStep_sched_rlate (r : Report) (s : State) :
    (disableStep r s).sched.rlate = s.sched.rlate := by rw [disableStep_frame]

@[simp] theorem linkStep_host (r : Report) (s : State) : (linkStep r s).host = s.host := by rw [linkStep_frame]
@[simp] theorem linkStep_engine (r : Report) (s : State) : (linkStep r s).engine = s.engine := by rw [linkStep_frame]
@[simp] theorem linkStep_receiver (r : Report) (s : State) :
    (linkStep r s).receiver = s.receiver := by rw [linkStep_frame]
@[simp] theorem linkStep_stations (r : Report) (s : State) :
    (linkStep r s).stations = s.stations := by rw [linkStep_frame]
@[simp] theorem linkStep_notes (r : Report) (s : State) : (linkStep r s).notes = s.notes := by rw [linkStep_frame]
@[simp] theorem linkStep_clock (r : Report) (s : State) : (linkStep r s).clock = s.clock := by rw [linkStep_frame]
@[simp] theorem linkStep_inReset (r : Report) (s : State) :
    (linkStep r s).inReset = s.inReset := by rw [linkStep_frame]
@[simp] theorem linkStep_clkRunning (r : Report) (s : State) :
    (linkStep r s).clkRunning = s.clkRunning := by rw [linkStep_frame]
@[simp] theorem linkStep_pending (r : Report) (s : State) :
    (linkStep r s).pending = s.pending := by rw [linkStep_frame]
@[simp] theorem linkStep_link_config (r : Report) (s : State) :
    (linkStep r s).link.config = s.link.config := by rw [linkStep_frame]
@[simp] theorem linkStep_link_wrej (r : Report) (s : State) :
    (linkStep r s).link.wrej = s.link.wrej := by rw [linkStep_frame]
@[simp] theorem linkStep_time_counter (r : Report) (s : State) :
    (linkStep r s).time.counter = s.time.counter := by rw [linkStep_frame]
@[simp] theorem linkStep_time_snapshot (r : Report) (s : State) :
    (linkStep r s).time.snapshot = s.time.snapshot := by rw [linkStep_frame]
@[simp] theorem linkStep_sched_roundCounter (r : Report) (s : State) :
    (linkStep r s).sched.roundCounter = s.sched.roundCounter := by rw [linkStep_frame]
@[simp] theorem linkStep_sched_burstCounter (r : Report) (s : State) :
    (linkStep r s).sched.burstCounter = s.sched.burstCounter := by rw [linkStep_frame]
@[simp] theorem linkStep_sched_rlate (r : Report) (s : State) :
    (linkStep r s).sched.rlate = s.sched.rlate := by rw [linkStep_frame]
@[simp] theorem linkStep_station (r : Report) (s : State) (n : StationId) :
    (linkStep r s).station n = s.station n := by rw [linkStep_frame]; rfl

@[simp] theorem timeStep_host (r : Report) (s : State) : (timeStep r s).host = s.host := by rw [timeStep_frame]
@[simp] theorem timeStep_link (r : Report) (s : State) : (timeStep r s).link = s.link := by rw [timeStep_frame]
@[simp] theorem timeStep_sched (r : Report) (s : State) : (timeStep r s).sched = s.sched := by rw [timeStep_frame]
@[simp] theorem timeStep_engine (r : Report) (s : State) : (timeStep r s).engine = s.engine := by rw [timeStep_frame]
@[simp] theorem timeStep_receiver (r : Report) (s : State) :
    (timeStep r s).receiver = s.receiver := by rw [timeStep_frame]
@[simp] theorem timeStep_stations (r : Report) (s : State) :
    (timeStep r s).stations = s.stations := by rw [timeStep_frame]
@[simp] theorem timeStep_slots (r : Report) (s : State) : (timeStep r s).slots = s.slots := by rw [timeStep_frame]
@[simp] theorem timeStep_service (r : Report) (s : State) :
    (timeStep r s).service = s.service := by rw [timeStep_frame]
@[simp] theorem timeStep_notes (r : Report) (s : State) : (timeStep r s).notes = s.notes := by rw [timeStep_frame]
@[simp] theorem timeStep_clock (r : Report) (s : State) : (timeStep r s).clock = s.clock := by rw [timeStep_frame]
@[simp] theorem timeStep_inReset (r : Report) (s : State) :
    (timeStep r s).inReset = s.inReset := by rw [timeStep_frame]
@[simp] theorem timeStep_clkRunning (r : Report) (s : State) :
    (timeStep r s).clkRunning = s.clkRunning := by rw [timeStep_frame]
@[simp] theorem timeStep_pending (r : Report) (s : State) :
    (timeStep r s).pending = s.pending := by rw [timeStep_frame]
@[simp] theorem timeStep_time_counter (r : Report) (s : State) :
    (timeStep r s).time.counter = s.time.counter := by rw [timeStep_frame]
@[simp] theorem timeStep_time_snapshot (r : Report) (s : State) :
    (timeStep r s).time.snapshot = s.time.snapshot := by rw [timeStep_frame]
@[simp] theorem timeStep_time_interval (r : Report) (s : State) :
    (timeStep r s).time.interval = s.time.interval := by rw [timeStep_frame]
@[simp] theorem timeStep_station (r : Report) (s : State) (n : StationId) :
    (timeStep r s).station n = s.station n := by rw [timeStep_frame]; rfl
@[simp] theorem timeStep_slot (r : Report) (s : State) (i : SlotId) :
    (timeStep r s).slot i = s.slot i := by rw [timeStep_frame]; rfl

@[simp] theorem leaveList_host (j : Job) (s : State) : (leaveList j s).host = s.host := by rw [leaveList_frame]
@[simp] theorem leaveList_link (j : Job) (s : State) : (leaveList j s).link = s.link := by rw [leaveList_frame]
@[simp] theorem leaveList_engine (j : Job) (s : State) : (leaveList j s).engine = s.engine := by rw [leaveList_frame]
@[simp] theorem leaveList_receiver (j : Job) (s : State) :
    (leaveList j s).receiver = s.receiver := by rw [leaveList_frame]
@[simp] theorem leaveList_stations (j : Job) (s : State) :
    (leaveList j s).stations = s.stations := by rw [leaveList_frame]
@[simp] theorem leaveList_slots (j : Job) (s : State) : (leaveList j s).slots = s.slots := by rw [leaveList_frame]
@[simp] theorem leaveList_service (j : Job) (s : State) :
    (leaveList j s).service = s.service := by rw [leaveList_frame]
@[simp] theorem leaveList_notes (j : Job) (s : State) : (leaveList j s).notes = s.notes := by rw [leaveList_frame]
@[simp] theorem leaveList_time (j : Job) (s : State) : (leaveList j s).time = s.time := by rw [leaveList_frame]
@[simp] theorem leaveList_clock (j : Job) (s : State) : (leaveList j s).clock = s.clock := by rw [leaveList_frame]
@[simp] theorem leaveList_inReset (j : Job) (s : State) :
    (leaveList j s).inReset = s.inReset := by rw [leaveList_frame]
@[simp] theorem leaveList_clkRunning (j : Job) (s : State) :
    (leaveList j s).clkRunning = s.clkRunning := by rw [leaveList_frame]
@[simp] theorem leaveList_pending (j : Job) (s : State) :
    (leaveList j s).pending = s.pending := by rw [leaveList_frame]
@[simp] theorem leaveList_sched_roundTimer (j : Job) (s : State) :
    (leaveList j s).sched.roundTimer = s.sched.roundTimer := by rw [leaveList_frame]
@[simp] theorem leaveList_sched_roundCounter (j : Job) (s : State) :
    (leaveList j s).sched.roundCounter = s.sched.roundCounter := by rw [leaveList_frame]
@[simp] theorem leaveList_sched_burstCounter (j : Job) (s : State) :
    (leaveList j s).sched.burstCounter = s.sched.burstCounter := by rw [leaveList_frame]
@[simp] theorem leaveList_sched_rlate (j : Job) (s : State) :
    (leaveList j s).sched.rlate = s.sched.rlate := by rw [leaveList_frame]
@[simp] theorem leaveList_station (j : Job) (s : State) (n : StationId) :
    (leaveList j s).station n = s.station n := by rw [leaveList_frame]; rfl
@[simp] theorem leaveList_slot (j : Job) (s : State) (i : SlotId) :
    (leaveList j s).slot i = s.slot i := by rw [leaveList_frame]; rfl

/-! ### The whole report -/

/-- The report in its steps. -/
theorem takeReport_eq (r : Report) (s : State) :
    takeReport r s =
      afterRemoval (leaveList r.job (timeStep r (linkStep r (disableStep r
        (slotStep r (stationStep r (s.setEngine none)).2 (attentionStep r (stationStep r (s.setEngine none)).1)))))) :=
  rfl

/-- R43 to R52: a transition of a report names the state the entry comes from. -/
theorem report_transition {st : Station} {r : Report} {t : Transition} (h : (st.report r).2 = some t) :
    (t = .found ∧ st.state = .absent) ∨ (t = .restored ∧ st.state = .isolated) ∨
      (t = .lost ∧ (st.served = true ∨ st.state = .isolated)) ∨
      (t = .degraded ∧ st.state = .online) ∨ ((t = .healthy ∨ t = .isolated) ∧ st.state = .degraded) := by
  have hs : ∀ o rep, (st.sound.recorded r.job o rep).state = st.state := by
    intro o rep
    unfold Station.recorded Station.sound Station.probed
    split <;> rfl
  unfold Station.report Station.absentReport Station.isolatedReport Station.servedReport Station.thresholds at h
  simp only [hs] at h
  unfold Station.served
  repeat' split at h
  all_goals simp_all [Station.raised, Station.missed, Station.answeredBadly]

end Sys2Proof.Machine
end

