-- ==== Sys2Proof/Laws/Entries.lean ====
section
/-! SUPPORT. What the operations on one entry of a table, on the slots and on the service list keep of State.Inv. -/

namespace Sys2Proof.Machine

/-! ### Station entries -/

theorem thresholds_ok {st : Station} {unsound : Bool} (hs : st.served = true) (hm : st.missCount ≤ 3)
    (ho : st.state = .online → st.faultCounter ≤ 27)
    (hd : st.state = .degraded → 15 ≤ st.faultCounter ∧ st.faultCounter ≤ 51 ∧ (unsound = false → st.faultCounter ≤ 47))
    (ha : st.attentionOk) : (st.thresholds unsound).1.ok := by
  unfold Station.ok Station.attentionOk Station.idleFieldsClear Station.countersBounded Station.served Station.thresholds degradedAt isolatedAt healthyBelow Station.isolate
    Station.clearAttention at *
  cases h : st.state <;> simp only [h] at hs ho hd ha ⊢
  · simp at hs
  · simp at hs
  · simp only [true_implies] at ho
    split
    · simp_all; omega
    · simp_all; omega
  · simp only [true_implies] at hd
    obtain ⟨d1, d2, d3⟩ := hd
    split
    · rename_i g
      simp at g ⊢; simp_all
    · rename_i g
      have g' : st.faultCounter ≤ 47 := by
        cases unsound
        · exact d3 rfl
        · simp at g; omega
      split
      · rename_i k
        have k' : st.faultCounter ≤ 23 := by omega
        simp_all
      · rename_i k
        have k' : 16 ≤ st.faultCounter := by omega
        simp_all
  · simp at hs

theorem lose_ok {st : Station} (_h : st.ok) (_hu : st.state ≠ .unused) : st.lose.ok := by
  unfold Station.ok Station.attentionOk Station.idleFieldsClear Station.countersBounded Station.lose Station.clearAttention at *
  simp_all

theorem Station.disable_ok (st : Station) : st.disable.ok := by
  unfold Station.ok Station.attentionOk Station.idleFieldsClear Station.countersBounded Station.disable Station.clearAttention
  simp

theorem Station.report_ok {st : Station} (r : Report) (h : st.ok) : (st.report r).1.ok := by
  have h0 := h
  obtain ⟨h1, h2, h3⟩ := h
  unfold Station.report
  split
  · exact h0
  · rename_i hs
    unfold Station.absentReport
    split
    · unfold Station.ok Station.attentionOk Station.idleFieldsClear Station.countersBounded Station.find Station.probed Station.served at *
      simp_all
    · exact h0
  · rename_i hs
    unfold Station.isolatedReport lostAt
    split
    · unfold Station.ok Station.attentionOk Station.idleFieldsClear Station.countersBounded Station.restore Station.probed Station.served restoredCounter at *
      simp_all
    · split
      · exact lose_ok h0 (by simp [hs])
      · unfold Station.ok Station.attentionOk Station.idleFieldsClear Station.countersBounded Station.missed Station.served at *
        simp_all
        try omega
    · unfold Station.ok Station.attentionOk Station.idleFieldsClear Station.countersBounded Station.answeredBadly Station.served at *
      simp_all
    · exact h0
  all_goals
    rename_i hs
    have hsound : ((st.sound.recorded r.job r.outcome r.reply).thresholds false).1.ok := by
      have hr : ∀ (j : Job) (o : ExchangeOutcome) (p : Option Reply),
         (st.sound.recorded j o p).state = st.state ∧ (st.sound.recorded j o p).faultCounter = st.faultCounter - 1 ∧ (st.sound.recorded j o p).missCount = 0 ∧
         (st.sound.recorded j o p).latch = st.latch ∧ (st.sound.recorded j o p).attnCode = st.attnCode ∧ (st.sound.recorded j o p).ackPending = st.ackPending ∧
         (st.sound.recorded j o p).mode = st.mode := by
        intro j o p
        unfold Station.recorded Station.sound Station.probed
        split <;> exact ⟨rfl, rfl, rfl, rfl, rfl, rfl, rfl⟩
      obtain ⟨e1, e2, e3, e4, e5, e6, e7⟩ := hr r.job r.outcome r.reply
      unfold Station.countersBounded at h1
      simp only [hs] at h1
      apply thresholds_ok
      · simp [Station.served, e1, hs]
      · omega
      · intro h; rw [e1, hs] at h; first | (cases h; done) | (rw [e2]; omega)
      · intro h; rw [e1, hs] at h; first | (cases h; done) | (rw [e2]; omega)
      · unfold Station.attentionOk Station.served at *
        simp_all
    have hbad : ∀ m, m ≤ 3 → (({ st.raised with missCount := m } : Station).thresholds true).1.ok := by
      intro m hm
      unfold Station.countersBounded at h1
      simp only [hs] at h1
      apply thresholds_ok
      · simp [Station.served, Station.raised, hs]
      · exact hm
      · intro h; simp only [Station.raised, unsoundStep, hs] at *; first | (cases h; done) | omega
      · intro h
        simp only [Station.raised, unsoundStep, hs] at *
        first | (cases h; done) | exact ⟨by omega, by omega, fun x => by cases x⟩
      · exact h2
    unfold Station.servedReport lostAt
    split
    · simpa [*] using hsound
    · simpa [*] using hsound
    · simpa [*] using hsound
    · split
      · exact lose_ok h0 (by simp [hs])
      · rename_i hl
        exact hbad (st.missCount + 1) (by omega)
    · exact hbad 0 (by omega)
    · exact h0
    · exact h0

theorem Station.enable_ok {st : Station} (h : st.ok) (hu : st.state = .unused) : st.enable.ok := by
  unfold Station.ok Station.countersBounded Station.attentionOk Station.idleFieldsClear Station.served Station.enable at *
  simp_all

theorem Station.restart_ok {st : Station} (h : st.ok) : st.restart.ok := by
  unfold Station.restart
  split
  · exact h
  · unfold Station.ok Station.countersBounded Station.attentionOk Station.idleFieldsClear Station.served
      Station.clearAttention at *
    simp_all

theorem Station.clearAttn_ok {st : Station} (h : st.ok) : st.clearAttn.1.ok := by
  unfold Station.clearAttn
  split
  · exact h
  · split
    · unfold Station.ok Station.countersBounded Station.attentionOk Station.idleFieldsClear Station.served at *
      split <;> simp_all
    · exact h

theorem Station.configure_ok {st : Station} (c : StationClass) (m : AttentionMode) (h : st.ok) :
    (st.configure c m).ok := by
  unfold Station.configure
  unfold Station.ok Station.countersBounded Station.attentionOk Station.idleFieldsClear Station.served at *
  cases m <;> split <;> simp_all

theorem Station.acknowledged_ok {st : Station} (r : Report) (h : st.ok) : (st.acknowledged r).ok := by
  unfold Station.acknowledged
  split
  · unfold Station.ok Station.countersBounded Station.attentionOk Station.idleFieldsClear Station.served at *
    simp_all
  · exact h

theorem Station.latchCode_ok {st : Station} (c : Byte) (h : st.ok) (hs : st.served = true) (ha : st.ackPending = false) :
    (st.latchCode c).ok := by
  unfold Station.latchCode
  unfold Station.ok Station.countersBounded Station.attentionOk Station.idleFieldsClear Station.served at *
  simp_all

theorem Station.resync_ok {st : Station} (h : st.ok) (h1 : st.state ≠ .unused) (h2 : st.state ≠ .absent) :
    ({ st with resync := true } : Station).ok := by
  unfold Station.ok Station.countersBounded Station.attentionOk Station.idleFieldsClear Station.served at *
  simp_all

theorem Station.disablePending_ok {st : Station} (h : st.ok) (h1 : st.state ≠ .unused) :
    ({ st with disablePending := true } : Station).ok := by
  unfold Station.ok Station.countersBounded Station.attentionOk Station.idleFieldsClear Station.served at *
  simp_all

theorem acknowledged_served (st : Station) (r : Report) : (st.acknowledged r).served = st.served := by
  unfold Station.acknowledged
  split <;> rfl

/-- Step 2 changes the attention fields of the target alone. -/
theorem attentionStep_entry (r : Report) (s : State) (n : StationId) :
    ∃ l c a, (attentionStep r s).station n =
      { s.station n with latch := l, attnCode := c, ackPending := a } := by
  by_cases h : r.job.station? = some n
  · have e : ∀ m : Station, (∃ a, m = { s.station n with ackPending := a }) → (∃ l c a, m =
      { s.station n with latch := l, attnCode := c, ackPending := a }) := by
      rintro m ⟨a, rfl⟩
      exact ⟨(s.station n).latch, (s.station n).attnCode, a, rfl⟩
    have hk : ∃ a, (s.station n).acknowledged r = { s.station n with ackPending := a } := by
      unfold Station.acknowledged
      split
      · exact ⟨false, rfl⟩
      · exact ⟨(s.station n).ackPending, rfl⟩
    unfold attentionStep takeAttention
    simp only [h]
    split
    · split
      · split
        · obtain ⟨a, ha⟩ := hk
          simp only [offer_station, setStation_station_same, ha]
          exact ⟨_, _, _, rfl⟩
        · simpa using e _ hk
      · simpa using e _ hk
    · exact ⟨_, _, _, rfl⟩
  · rw [attentionStep_other h]
    exact ⟨_, _, _, rfl⟩

theorem attentionStep_stationsOk (r : Report) {s : State} (h : s.stationsOk) : (attentionStep r s).stationsOk := by
  intro n
  by_cases hn : r.job.station? = some n
  · have hk := Station.acknowledged_ok r (h n)
    unfold attentionStep takeAttention
    simp only [hn]
    split
    · rename_i hs
      split
      · split
        · rename_i hl
          simp only [setStation_station_same, offer_station] at hl ⊢
          refine Station.latchCode_ok _ hk ?_ ?_
          · rw [acknowledged_served]; exact hs
          · unfold Station.latches at hl; simp at hl; exact hl.1.2
        · simpa using hk
      · simpa using hk
    · exact h n
  · rw [attentionStep_other hn]
    exact h n

/-! ### Slots and the service list -/

/-- A report's outcome carries what its rule needs: a reply where the slot takes one, and SENT for a time mark alone. -/
def Report.sound (r : Report) : Prop :=
  (r.outcome = .good ∨ r.outcome = .refused → r.reply.isSome = true) ∧ (r.outcome = .sent → r.job = .timeMark)

theorem overrideByStation_cases (sl : Slot) (t : Option Transition) :
    sl.overrideByStation t = sl ∨ ∃ o, sl.overrideByStation t = sl.fail o := by
  unfold Slot.overrideByStation
  repeat' split
  · exact Or.inr ⟨_, rfl⟩
  · exact Or.inr ⟨_, rfl⟩
  · exact Or.inl rfl

theorem overrideByHost_cases (sl : Slot) (d p : Bool) :
    sl.overrideByHost d p = sl ∨ ∃ o, sl.overrideByHost d p = sl.fail o := by
  unfold Slot.overrideByHost
  repeat' split
  · exact Or.inr ⟨_, rfl⟩
  · exact Or.inr ⟨_, rfl⟩
  · exact Or.inl rfl
  · exact Or.inl rfl

/-- A slot whose request exchange has ended. -/
def Slot.settled (sl : Slot) (station : BitVec 5) : Prop :=
  sl.station = station ∧
    ((sl.state = .queued ∧ sl.backoff = none) ∨ (sl.state = .waiting ∧ sl.backoff.isSome = true) ∨
      ((sl.state = .done ∨ sl.state = .failed) ∧ sl.backoff = none))

theorem Slot.fail_settled {sl : Slot} {a : BitVec 5} (o : SlotOutcome) (h : sl.settled a) : (sl.fail o).settled a :=
  ⟨h.1, Or.inr (Or.inr ⟨Or.inr rfl, rfl⟩)⟩

theorem Slot.applyOutcome_settled {sl : Slot} (c : TimingConfig) {r : Report} (hr : r.sound) (hj : r.job ≠ .timeMark)
    (hb : sl.backoff = none) : (sl.applyOutcome c r).settled sl.station := by
  obtain ⟨h1, h2⟩ := hr
  unfold Slot.applyOutcome Slot.settled
  split <;> rename_i ho hp <;> try simp only [ho] at h1 h2
  · simp [Slot.complete, hb]
  · simp [Slot.refuse, Slot.fail]
  · unfold Slot.busy
    split <;> simp [Slot.fail]
  · unfold Slot.retry
    split <;> simp [Slot.fail, Slot.requeue, hb]
  · unfold Slot.retry
    split <;> simp [Slot.fail, Slot.requeue, hb]
  · simp [Slot.requeue, hb]
  · simp [hp] at h1
  · simp [hp] at h1
  · exact absurd (h2 (by assumption)) hj

theorem Slot.report_settled {sl : Slot} (c : TimingConfig) {r : Report} (t : Option Transition) (d p : Bool)
    (hr : r.sound) (hj : r.job ≠ .timeMark) (hb : sl.backoff = none) : (sl.report c r t d p).settled sl.station := by
  have h0 : ((sl.countAttempt r.frameWhole).applyOutcome c r).settled sl.station := by
    have := Slot.applyOutcome_settled (sl := sl.countAttempt r.frameWhole) c hr hj (by
      unfold Slot.countAttempt; split <;> exact hb)
    have e : (sl.countAttempt r.frameWhole).station = sl.station := by
      unfold Slot.countAttempt; split <;> rfl
    rwa [e] at this
  unfold Slot.report
  generalize (sl.countAttempt r.frameWhole).applyOutcome c r = x at *
  have h1 : (x.overrideByStation t).settled sl.station := by
    rcases overrideByStation_cases x t with h | ⟨o, h⟩ <;> rw [h]
    · exact h0
    · exact Slot.fail_settled o h0
  generalize x.overrideByStation t = y at *
  have h2 : (y.overrideByHost d p).settled sl.station := by
    rcases overrideByHost_cases y d p with h | ⟨o, h⟩ <;> rw [h]
    · exact h1
    · exact Slot.fail_settled o h1
  generalize y.overrideByHost d p = z at *
  unfold Slot.stamped
  split
  · exact h2
  · exact h2

theorem Slot.report_exhausted {sl : Slot} {c : TimingConfig} {r : Report} {t : Option Transition} {d p : Bool}
    (h : (sl.report c r t d p).exhausted = true) : t ≠ some .lost := by
  rintro rfl
  unfold Slot.report at h
  generalize (sl.countAttempt r.frameWhole).applyOutcome c r = x at *
  have e : ∀ z : Slot, (z.stamped r.endTime).exhausted = z.exhausted := by
    intro z; unfold Slot.stamped; split <;> rfl
  rw [e] at h
  unfold Slot.overrideByHost Slot.overrideByStation Slot.fail Slot.exhausted Slot.waitingForService at h
  repeat' split at h
  all_goals simp_all

/-- The slots of a settled state: none ACTIVE. -/
def State.noActive (s : State) : Prop := ∀ i, (s.slot i).state ≠ .active

theorem failSlots_serviceListOk {s : State} (p : Slot → Bool) (o : SlotOutcome) (t : Stamp) (h : s.serviceListOk) :
    (failSlots p o t s).serviceListOk := by
  obtain ⟨h1, h2, h3⟩ := h
  refine ⟨?_, fun i => ?_, fun i => ?_⟩
  · rw [failSlots_service]; exact h1.filter _
  · rw [failSlots_service, List.mem_filter, h2 i, failSlots_slot]
    split
    · rename_i hp
      simp [hp.1, hp.2, fail_stamped, Slot.inService]
    · rename_i hp
      cases hx : p (s.slot i) <;> cases hy : (s.slot i).waitingForService <;> simp_all
  · rw [failSlots_slot]
    split
    · simp [fail_stamped]
    · exact h3 i

theorem failSlots_state (p : Slot → Bool) (o : SlotOutcome) (t : Stamp) (s : State) (i : SlotId) :
    ((failSlots p o t s).slot i = s.slot i ∧ ¬(p (s.slot i) = true ∧ (s.slot i).waitingForService = true)) ∨
      ((p (s.slot i) = true ∧ (s.slot i).waitingForService = true) ∧ ((failSlots p o t s).slot i).state = .failed ∧
        ((failSlots p o t s).slot i).station = (s.slot i).station) := by
  rw [failSlots_slot]
  split
  · rename_i h
    exact Or.inr ⟨h, by simp [fail_stamped], by simp [fail_stamped]⟩
  · rename_i h
    exact Or.inl ⟨rfl, h⟩

theorem failSlots_active {s : State} (p : Slot → Bool) (o : SlotOutcome) (t : Stamp) (i : SlotId) :
    ((failSlots p o t s).slot i).state = .active ↔ (s.slot i).state = .active := by
  rcases failSlots_state p o t s i with ⟨h, _⟩ | ⟨⟨_, h⟩, h', _⟩
  · rw [h]
  · rw [h']
    unfold Slot.waitingForService at h
    constructor
    · intro x; cases x
    · intro x; simp [x] at h

/-- A slot that a mass failure leaves in service was in service, and is not one it picks, unless it is ACTIVE. -/
theorem failSlots_inService {s : State} {p : Slot → Bool} {o : SlotOutcome} {t : Stamp} {i : SlotId}
    (h : ((failSlots p o t s).slot i).inService = true) :
    (failSlots p o t s).slot i = s.slot i ∧ (s.slot i).inService = true ∧
      (p (s.slot i) = true → (s.slot i).state = .active) := by
  rcases failSlots_state p o t s i with ⟨e, hn⟩ | ⟨_, h', _⟩
  · rw [e] at h
    refine ⟨e, h, fun hp => ?_⟩
    unfold Slot.inService Slot.waitingForService at *
    simp_all
  · simp [Slot.inService, h'] at h

theorem setSlot_serviceListOk {s : State} {i : SlotId} {x : Slot} (h : s.serviceListOk)
    (h1 : x.inService = (s.slot i).inService) (h2 : x.backoff.isSome = true ↔ x.state = .waiting) :
    (s.setSlot i x).serviceListOk := by
  obtain ⟨g1, g2, g3⟩ := h
  refine ⟨g1, fun j => ?_, fun j => ?_⟩
  · rw [setSlot_slot, setSlot_service]
    split
    · rename_i e; subst e; rw [h1]; exact g2 i
    · exact g2 j
  · rw [setSlot_slot]
    split
    · exact h2
    · exact g3 j

theorem leaveSlot_serviceListOk {s : State} {i : SlotId} {x : Slot} (h : s.serviceListOk)
    (h1 : x.inService = false) (h2 : x.backoff = none) : ((s.setSlot i x).leaveService i).serviceListOk := by
  obtain ⟨g1, g2, g3⟩ := h
  have hw : x.state ≠ .waiting := by intro e; simp [Slot.inService, e] at h1
  refine ⟨g1.filter _, fun j => ?_, fun j => ?_⟩
  · rw [leaveService_slot, setSlot_slot]
    unfold State.leaveService
    rw [setService_service, setSlot_service, List.mem_filter, g2 j]
    split
    · rename_i e; subst e; simp [h1]
    · rename_i e; simp [Ne.symm e]
  · rw [leaveService_slot, setSlot_slot]
    split
    · simp [h2, hw]
    · exact g3 j

theorem applyToSlot_serviceListOk {s : State} {r : Report} {t : Option Transition} {i : SlotId} {n : StationId}
    (h : s.serviceListOk) (ha : (s.slot i).state = .active) (hr : r.sound) (hj : r.job ≠ .timeMark) :
    (applyToSlot r t i n s).serviceListOk := by
  have hb : (s.slot i).backoff = none := by
    have := h.2.2 i
    rw [ha] at this
    simpa using this
  have hx := Slot.report_settled s.link.config t (s.station n).disablePending (s.link.state = .stopping) hr hj hb
  unfold applyToSlot
  dsimp only
  generalize (s.slot i).report s.link.config r t (s.station n).disablePending (decide (s.link.state = .stopping)) = x at *
  have key : (if x.finished = true then (s.setSlot i x).leaveService i else s.setSlot i x).serviceListOk := by
    obtain ⟨_, hx⟩ := hx
    split
    · rename_i hf
      apply leaveSlot_serviceListOk h
      · rcases hx with ⟨e, _⟩ | ⟨e, _⟩ | ⟨e | e, _⟩ <;> simp_all [Slot.inService, Slot.finished]
      · rcases hx with ⟨e, _⟩ | ⟨e, _⟩ | ⟨e | e, _⟩ <;> simp_all [Slot.finished]
    · rename_i hf
      apply setSlot_serviceListOk h
      · rcases hx with ⟨e, _⟩ | ⟨e, _⟩ | ⟨e | e, _⟩ <;> simp_all [Slot.inService, Slot.finished]
      · rcases hx with ⟨e, _⟩ | ⟨e, _⟩ | ⟨e | e, _⟩ <;> simp_all [Slot.finished]
  split
  · exact key
  · exact key

theorem applyToSlot_slot (r : Report) (t : Option Transition) (i j : SlotId) (n : StationId) (s : State) :
    (applyToSlot r t i n s).slot j =
      if i = j then
        (s.slot i).report s.link.config r t (s.station n).disablePending (s.link.state = .stopping)
      else s.slot j := by
  unfold applyToSlot State.setResync
  dsimp only
  repeat' split
  all_goals simp_all [setSlot_slot]

end Sys2Proof.Machine
end

