-- ==== Sys2Proof/Laws/AfterReport.lean ====
section
/-! SUPPORT. What the end of an exchange keeps of State.Inv: the first steps of a report, and what follows a removal. -/

namespace Sys2Proof.Machine

/-! ### Step 1 -/

theorem stationStep_stationsOk (r : Report) {s : State} (h : s.stationsOk) : (stationStep r s).1.stationsOk := by
  intro m
  cases hn : r.job.station? with
  | none => rw [stationStep_no_target hn]; exact h m
  | some n =>
    rw [stationStep_station hn]
    split
    · exact Station.report_ok r (h n)
    · exact h m

theorem Station.report_disablePending (st : Station) (r : Report) :
    (st.report r).1.disablePending = st.disablePending := by
  have hr : ∀ (x : Station) (j : Job) (o : ExchangeOutcome) (p : Option Reply), (x.recorded j o p).disablePending = x.disablePending := by
    intro x j o p
    unfold Station.recorded Station.probed
    split <;> rfl
  have ht : ∀ (x : Station) (u : Bool), (x.thresholds u).1.disablePending = x.disablePending := by
    intro x u
    unfold Station.thresholds
    repeat' split
    all_goals rfl
  unfold Station.report Station.absentReport Station.isolatedReport Station.servedReport
  repeat' split
  all_goals first | rfl | (rw [ht]; first | rfl | (rw [hr]; rfl))

/-- R47: the state a transition leaves an entry in. -/
def stateAfter (x : StationState) : Option Transition → StationState
  | none => x
  | some .found | some .healthy => .online
  | some .lost => .absent
  | some .degraded | some .restored => .degraded
  | some .isolated => .isolated

/-- What a report leaves of a station's state, by the transition it makes. -/
theorem Station.report_state (st : Station) (r : Report) :
    (st.report r).1.state = stateAfter st.state (st.report r).2 := by
  have hr : ∀ (j : Job) (o : ExchangeOutcome) (p : Option Reply), (st.sound.recorded j o p).state = st.state := by
    intro j o p
    unfold Station.recorded Station.probed
    split <;> rfl
  have ht : ∀ (x : Station) (u : Bool), x.state = st.state →
      (x.thresholds u).1.state = stateAfter st.state (x.thresholds u).2 := by
    intro x u hx
    unfold Station.thresholds
    repeat' split
    all_goals first | exact hx | rfl
  unfold Station.report Station.absentReport Station.isolatedReport Station.servedReport
  repeat' split
  all_goals first | rfl | (apply ht; first | rfl | exact hr _ _ _)

/-! ### Steps 1 to 3 on the station table -/

/-- The state after the first three steps of a report, taken with no exchange in flight. -/
def afterSlots (r : Report) (s : State) : State :=
  slotStep r (stationStep r (s.setEngine none)).2 (attentionStep r (stationStep r (s.setEngine none)).1)

theorem afterSlots_other {r : Report} {s : State} {m : StationId} (h : r.job.station? ≠ some m) :
    (afterSlots r s).station m = s.station m := by
  have e3 : ∀ t u, (slotStep r t u).station m = u.station m := by
    intro t u
    rcases slotStep_station r t u m with e | ⟨e, _⟩
    · exact e
    · exact absurd e h
  unfold afterSlots
  rw [e3, attentionStep_other h]
  cases hn : r.job.station? with
  | none => rw [stationStep_no_target hn]; rfl
  | some n =>
    rw [stationStep_station hn]
    have : n ≠ m := fun x => h (by rw [hn, x])
    simp [this]

theorem afterSlots_target {r : Report} {s : State} {n : StationId} (h : r.job.station? = some n) :
    ((afterSlots r s).station n).state = ((s.station n).report r).1.state ∧
      ((afterSlots r s).station n).disablePending = (s.station n).disablePending := by
  have e1 : (stationStep r (s.setEngine none)).1.station n = ((s.station n).report r).1 := by
    rw [stationStep_station h]; simp
  obtain ⟨l, c, a, e2⟩ := attentionStep_entry r (stationStep r (s.setEngine none)).1 n
  have e3 := slotStep_station r (stationStep r (s.setEngine none)).2
    (attentionStep r (stationStep r (s.setEngine none)).1) n
  have e4 := Station.report_disablePending (s.station n) r
  unfold afterSlots
  rcases e3 with e3 | ⟨_, e3⟩ <;> rw [e3, e2, e1] <;> exact ⟨rfl, e4⟩

theorem applyToSlot_resync {r : Report} {t : Option Transition} {i : SlotId} {n m : StationId} {s : State}
    (h : (applyToSlot r t i n s).station m ≠ s.station m) : n = m ∧ t ≠ some .lost ∧
      (applyToSlot r t i n s).station m = { s.station m with resync := true } := by
  rcases applyToSlot_station r t i n m s with e | ⟨e, e'⟩
  · exact absurd e h
  · refine ⟨e, ?_, e'⟩
    unfold applyToSlot at h
    dsimp only at h
    split at h
    · rename_i hx; exact Slot.report_exhausted hx
    · exfalso; apply h; split <;> rfl

theorem slotStep_resync {r : Report} {t : Option Transition} {m : StationId} {s : State}
    (h : (slotStep r t s).station m ≠ s.station m) : (∃ i k g, r.job = .request i k m g) ∧ t ≠ some .lost ∧
      (slotStep r t s).station m = { s.station m with resync := true } := by
  unfold slotStep at h ⊢
  cases hj : r.job with
  | request i k n g =>
    have e : ∀ u : State, (massFailure n t r.endTime u).station m = u.station m := by
      intro u; rw [massFailure_frame]; rfl
    simp only [hj, Job.station?, e] at h ⊢
    obtain ⟨h1, h2, h3⟩ := applyToSlot_resync h
    exact ⟨⟨i, k, g, by rw [h1]⟩, h2, h3⟩
  | timeMark => simp [hj, Job.station?] at h
  | probe p n => exfalso; apply h; simp only [hj, Job.station?]; rw [massFailure_frame]; rfl
  | poll n => exfalso; apply h; simp only [hj, Job.station?]; rw [massFailure_frame]; rfl
  | attnAck n => exfalso; apply h; simp only [hj, Job.station?]; rw [massFailure_frame]; rfl

/-- The target of a request that is not lost by its report is not UNUSED and not ABSENT. -/
theorem report_kept {st : Station} {r : Report} (hs : st.served = true) (ht : (st.report r).2 ≠ some .lost) :
    (st.report r).1.state ≠ .unused ∧ (st.report r).1.state ≠ .absent := by
  rw [Station.report_state]
  unfold Station.served at hs
  unfold stateAfter
  split <;> simp_all
  rcases hs with h | h <;> simp [h]

theorem afterSlots_stationsOk {r : Report} {s : State} (h : s.stationsOk)
    (hr : ∀ i k n g, r.job = .request i k n g → (s.station n).served = true) : (afterSlots r s).stationsOk := by
  intro m
  have h0 : (s.setEngine none).stationsOk := h
  have h2 := attentionStep_stationsOk r (stationStep_stationsOk r h0) m
  by_cases hx : (afterSlots r s).station m = (attentionStep r (stationStep r (s.setEngine none)).1).station m
  · rw [hx]; exact h2
  · obtain ⟨⟨i, k, g, hj⟩, ht, e⟩ := slotStep_resync hx
    have hn : r.job.station? = some m := by rw [hj]; rfl
    rw [stationStep_transition hn] at ht
    have hk := report_kept (r := r) (hr i k m g hj) ht
    obtain ⟨l, c, a, e2⟩ := attentionStep_entry r (stationStep r (s.setEngine none)).1 m
    have e1 : (stationStep r (s.setEngine none)).1.station m = ((s.station m).report r).1 := by
      rw [stationStep_station hn]; simp
    unfold afterSlots
    rw [e]
    apply Station.resync_ok h2
    · rw [e2, e1]; exact hk.1
    · rw [e2, e1]; exact hk.2

/-! ### Step 3 on the slots -/

/-- R77: a slot is ACTIVE exactly while it is the job's. -/
def State.activeFor (s : State) (j : Job) : Prop := ∀ i, (s.slot i).state = .active ↔ ∃ k n g, j = .request i k n g

theorem massFailure_serviceListOk {s : State} (n : StationId) (tr : Option Transition) (t : Stamp) (h : s.serviceListOk) :
    (massFailure n tr t s).serviceListOk := by
  rcases tr with _ | tr
  · exact h
  · cases tr <;> first | exact h | exact failSlots_serviceListOk _ _ _ h

theorem massFailure_active (n : StationId) (tr : Option Transition) (t : Stamp) (s : State) (i : SlotId) :
    ((massFailure n tr t s).slot i).state = .active ↔ (s.slot i).state = .active := by
  rcases tr with _ | tr
  · exact Iff.rfl
  · cases tr <;> first | exact Iff.rfl | exact failSlots_active _ _ _ _

theorem massFailure_inService {n : StationId} {tr : Option Transition} {t : Stamp} {s : State} {i : SlotId}
    (h : ((massFailure n tr t s).slot i).inService = true) :
    (massFailure n tr t s).slot i = s.slot i ∧ (s.slot i).inService = true ∧
      (tr = some .lost ∨ tr = some .isolated → (s.slot i).station = address n → (s.slot i).state = .active) := by
  have fails : ∀ o, ((failStationSlots n o t s).slot i).inService = true →
      (failStationSlots n o t s).slot i = s.slot i ∧ (s.slot i).inService = true ∧
        ((s.slot i).station = address n → (s.slot i).state = .active) := by
    intro o x
    obtain ⟨h1, h2, h3⟩ := failSlots_inService x
    exact ⟨h1, h2, fun hx => h3 (by simp [Slot.isFor, hx])⟩
  rcases tr with _ | tr
  · exact ⟨rfl, h, fun x => by rcases x with x | x <;> cases x⟩
  · cases tr
    all_goals first
      | exact ⟨rfl, h, fun x => by rcases x with x | x <;> cases x⟩
      | exact ⟨(fails _ h).1, (fails _ h).2.1, fun _ => (fails _ h).2.2⟩

/-- R78 to R89: after the slot controller's step no slot is ACTIVE, and the service list still agrees. -/
theorem slotStep_serviceListOk {r : Report} {t : Option Transition} {s : State} (h : s.serviceListOk)
    (ha : s.activeFor r.job) (hr : r.sound) : (slotStep r t s).serviceListOk ∧ (slotStep r t s).noActive := by
  cases hj : r.job with
  | request i k n g =>
    have hi : (s.slot i).state = .active := (ha i).mpr ⟨k, n, g, hj⟩
    have hne : r.job ≠ .timeMark := by rw [hj]; simp
    simp only [slotStep, hj, Job.station?]
    refine ⟨massFailure_serviceListOk _ _ _ (applyToSlot_serviceListOk h hi hr hne), fun m hm => ?_⟩
    rw [massFailure_active, applyToSlot_slot] at hm
    split at hm
    · have hb : (s.slot i).backoff = none := by
        have := h.2.2 i
        rw [hi] at this
        simpa using this
      have hx := (Slot.report_settled s.link.config t (s.station n).disablePending (s.link.state = .stopping) hr hne hb).2
      rw [hm] at hx
      simp at hx
    · rename_i hmi
      obtain ⟨k', n', g', e⟩ := (ha m).mp hm
      rw [hj] at e
      injection e with e1
      exact hmi e1
  | timeMark =>
    simp only [slotStep, hj, Job.station?]
    refine ⟨h, fun m hm => ?_⟩
    obtain ⟨k', n', g', e⟩ := (ha m).mp hm
    rw [hj] at e; cases e
  | _ =>
    simp only [slotStep, hj, Job.station?]
    refine ⟨massFailure_serviceListOk _ _ _ h, fun m hm => ?_⟩
    rw [massFailure_active] at hm
    obtain ⟨k', n', g', e⟩ := (ha m).mp hm
    rw [hj] at e; cases e

/-- A slot that the slot controller's step leaves in service was in service for the same station, and its station is
not one that the report lost or isolated. -/
theorem slotStep_inService {r : Report} {t : Option Transition} {s : State} {i : SlotId} (h : s.serviceListOk)
    (ha : s.activeFor r.job) (hr : r.sound) (hi : ((slotStep r t s).slot i).inService = true) :
    (s.slot i).inService = true ∧ ((slotStep r t s).slot i).station = (s.slot i).station ∧
      (t = some .lost ∨ t = some .isolated → ∀ n, r.job.station? = some n → (s.slot i).station ≠ address n) := by
  have hna := (slotStep_serviceListOk (t := t) h ha hr).2 i
  cases hj : r.job with
  | request k kd n g =>
    have hk : (s.slot k).state = .active := (ha k).mpr ⟨kd, n, g, hj⟩
    have hne : r.job ≠ .timeMark := by rw [hj]; simp
    have hb : (s.slot k).backoff = none := by
      have := h.2.2 k
      rw [hk] at this
      simpa using this
    have hx := (Slot.report_settled s.link.config t (s.station n).disablePending (s.link.state = .stopping) hr hne hb).1
    simp only [slotStep, hj, Job.station?] at hi hna ⊢
    obtain ⟨e1, e2, e3⟩ := massFailure_inService hi
    rw [e1] at hna ⊢
    rw [applyToSlot_slot] at e2 e3 hna ⊢
    split at e2
    · rename_i hki
      rw [if_pos hki] at e3 hna ⊢
      subst hki
      refine ⟨by simp [Slot.inService, hk], hx, fun ht m hm => ?_⟩
      injection hm with hm
      subst hm
      intro hst
      exact hna (e3 ht (by rw [hx]; exact hst))
    · rename_i hki
      rw [if_neg hki] at e3 hna ⊢
      refine ⟨e2, rfl, fun ht m hm => ?_⟩
      injection hm with hm
      subst hm
      intro hst
      exact hna (e3 ht hst)
  | timeMark =>
    simp only [slotStep, hj, Job.station?] at hi ⊢
    exact ⟨hi, by trivial, fun _ m hm => by cases hm⟩
  | _ =>
    simp only [slotStep, hj, Job.station?] at hi hna ⊢
    obtain ⟨e1, e2, e3⟩ := massFailure_inService hi
    rw [e1] at hna ⊢
    refine ⟨e2, by trivial, fun ht m hm => ?_⟩
    injection hm with hm
    subst hm
    intro hst
    exact hna (e3 ht hst)

/-! ### What follows a removal -/

/-- What an invariant state shows between the removal of an entry and what follows it (R104, R106, R107). -/
def State.linkAlmostOk (s : State) : Prop :=
  s.linkOk ∨ (s.link.state = .starting ∧ s.sched.roundList = [] ∧ s.sched.roundTimer = .stopped ∧ s.link.lineErrors < 8)

theorem buildRound_agrees {s : State} {c : BitVec 16} {i : RoundItem} (h : i ∈ s.buildRound c) : s.itemAgrees i := by
  rw [mem_buildRound] at h
  unfold State.itemAgrees Station.served
  unfold roundItem? at h
  repeat' split at h
  all_goals first | (simp at h; done) | (injection h with h; rw [← h]; simp_all)

theorem startRound_listsOk {s : State} (h : s.sched.discovery = []) : (startRound s).listsOk := by
  refine ⟨?_, ?_, ?_, ?_⟩
  · rw [startRound_roundList]; exact buildRound_pairwise s _
  · intro i hi
    rw [startRound_roundList] at hi
    exact buildRound_agrees hi
  · show s.sched.discovery.Pairwise _; rw [h]; exact List.Pairwise.nil
  · intro n hn
    have : n ∈ s.sched.discovery := hn
    rw [h] at this
    cases this

theorem startRound_engineOk {s : State} (h : s.engineOk) (hr : s.sched.roundList = []) : (startRound s).engineOk := by
  unfold State.engineOk at *
  have e : (startRound s).engine = s.engine := rfl
  rw [e]
  split
  · trivial
  · rename_i x hx
    rw [hx] at h
    dsimp only at h
    refine ⟨h.1, ?_⟩
    have h2 := h.2
    split at h2 <;> first | exact h2 | (rw [hr] at h2; simp at h2)

theorem afterRemoval_inv {s : State} (stations : s.stationsOk) (disable : s.disablePendingOk) (link : s.linkAlmostOk)
    (burst : s.burstOk) (engine : s.engineOk) (service : s.serviceOk) (law : s.serviceLaw) (queue : s.queueOk)
    (config : s.configOk) (lists : s.listsOk) (clocks : s.clocksAgree) : (afterRemoval s).Inv := by
  rcases afterRemoval_cases s with ⟨h1, h2, e⟩ | ⟨h1, h2, e⟩ | ⟨h1, h2, e⟩ <;> rw [e]
  · have hl : s.sched.roundList = [] ∧ s.sched.roundTimer = .stopped ∧ s.link.lineErrors < 8 := by
      rcases link with h | h
      · unfold State.linkOk at h; rw [h1] at h; exact ⟨h.2.1, h.2.2.1, h.2.2.2⟩
      · exact h.2
    refine ⟨stations, disable, ⟨h2, roundTimerFor_ne_stopped _ _, hl.2.2⟩, fun _ => burst (by rw [h1]; simp), ?_, service,
      ⟨law.1, fun h => by cases h⟩, queue, config, startRound_listsOk h2, clocks⟩
    refine startRound_engineOk ?_ hl.1
    unfold State.engineOk at *
    split
    · trivial
    · rename_i x hx
      have hx' : s.engine = some x := hx
      rw [hx'] at engine
      dsimp only at engine
      refine ⟨engine.1, ?_⟩
      have h3 := engine.2
      split at h3 <;> simp_all
  · have hl : s.sched.discovery = [] ∧ s.link.lineErrors < 8 := by
      rcases link with h | h
      · unfold State.linkOk at h; rw [h1] at h; exact ⟨h.1, h.2.2⟩
      · rw [h1] at h; cases h.1
    have hr : s.sched.roundList = [] := by
      unfold Scheduler.roundDue at h2; simp at h2; exact h2.2
    refine ⟨stations, disable, ?_, burst, startRound_engineOk engine hr, service, law, queue, config, startRound_listsOk hl.1, clocks⟩
    have e1 : (startRound s).link.state = .running := h1
    unfold State.linkOk
    rw [e1]
    exact ⟨hl.1, roundTimerFor_ne_stopped _ _, hl.2⟩
  · refine ⟨stations, disable, ?_, burst, engine, service, law, queue, config, lists, clocks⟩
    rcases link with h | ⟨g1, g2, g3, g4⟩
    · exact h
    · unfold State.linkOk
      rw [g1]
      exact ⟨fun hd => h1 ⟨g1, hd⟩, g2, g3, g4⟩

end Sys2Proof.Machine
end

