-- ==== Sys2Proof/Laws/Invariant.lean ====
section
/-! SUPPORT. The end of an exchange keeps State.Inv, whatever its outcome. -/

namespace Sys2Proof.Machine

/-- A list in ascending order, or any part of it, holds its least station at its head alone. -/
theorem not_mem_after_leave {M : List RoundItem} {n : StationId} {i : RoundItem}
    (hp : (M.map (fun i => i.station)).Pairwise (fun a b => a < b)) (hn : ∀ j ∈ M, n ≤ j.station)
    (hi : i ∈ (match M with | x :: rest => if x.station = n then rest else M | [] => M)) : i.station ≠ n := by
  cases M with
  | nil => cases hi
  | cons x rest =>
    simp only [List.map_cons, List.pairwise_cons, List.mem_map, forall_exists_index, and_imp, forall_apply_eq_imp_iff₂] at hp
    dsimp only at hi
    split at hi
    · rename_i e
      have := hp.1 i hi
      rw [e] at this
      exact (ne_of_lt this).symm
    · rename_i e
      rcases List.mem_cons.mp hi with h | h
      · rw [h]; exact e
      · intro hx
        have h1 := hp.1 i h
        have h2 := hn x (List.mem_cons_self)
        rw [hx] at h1
        exact absurd h1 (not_lt.mpr h2)

theorem not_mem_after_leave' {M : List StationId} {n m : StationId} (hp : M.Pairwise (fun a b => a < b))
    (hn : ∀ j ∈ M, n ≤ j) (hm : m ∈ (match M with | x :: rest => if x = n then rest else M | [] => M)) : m ≠ n := by
  cases M with
  | nil => cases hm
  | cons x rest =>
    simp only [List.pairwise_cons] at hp
    dsimp only at hm
    split at hm
    · rename_i e
      have := hp.1 m hm
      rw [e] at this
      exact (ne_of_lt this).symm
    · rename_i e
      rcases List.mem_cons.mp hm with h | h
      · rw [h]; exact e
      · rintro rfl
        exact absurd (hp.1 m h) (not_lt.mpr (hn x List.mem_cons_self))

/-- Step 5, by the link state it finds. -/
theorem linkStep_cases (r : Report) (s : State) :
    let s1 := s.setLink { s.link with lineErrors := countAfter s.link.lineErrors r.outcome }
    ((s.link.state = .starting ∨ s.link.state = .running) ∧ reachesLimit s.link.lineErrors r.outcome = false ∧
      linkStep r s = s1) ∨
    ((s.link.state = .starting ∨ s.link.state = .running ∨ s.link.state = .holding) ∧
      reachesLimit s.link.lineErrors r.outcome = true ∧ linkStep r s = enterFaulted s1) ∨
    (s.link.state = .holding ∧ reachesLimit s.link.lineErrors r.outcome = false ∧ linkStep r s = enterHeld s1) ∨
    (s.link.state = .stopping ∧ linkStep r s = enterStopped r.endTime s1) ∨
    ((s.link.state = .stopped ∨ s.link.state = .held ∨ s.link.state = .faulted) ∧ linkStep r s = s1) := by
  unfold linkStep
  cases s.link.state <;> cases reachesLimit s.link.lineErrors r.outcome <;> simp

theorem countAfter_lt {n : Nat} {o : ExchangeOutcome} (h : n < 8) (hl : reachesLimit n o = false) :
    countAfter n o < 8 := by
  unfold reachesLimit faultedAt countAfter at *
  cases o <;> simp_all
  omega

theorem countAfter_le {n : Nat} {o : ExchangeOutcome} (h : n < 8) : countAfter n o ≤ 8 := by
  unfold countAfter
  cases o <;> simp <;> omega

theorem timeStep_cases (r : Report) (s : State) :
    timeStep r s = s ∨ timeStep r s = s.setTime { s.time with pendingMark := false } := by
  unfold timeStep
  split
  · exact Or.inr rfl
  · exact Or.inl rfl

/-! ### Steps 1 to 4 on the lists -/

theorem afterSlots_fields (r : Report) (s : State) :
    (afterSlots r s).link = s.link ∧ (afterSlots r s).time = s.time ∧ (afterSlots r s).clock = s.clock ∧
      (afterSlots r s).engine = none ∧ (afterSlots r s).sched.discovery = s.sched.discovery ∧
      (afterSlots r s).sched.roundTimer = s.sched.roundTimer ∧
      (afterSlots r s).sched.burstCounter = s.sched.burstCounter := by
  unfold afterSlots
  simp

theorem afterSlots_roundList (r : Report) (s : State) :
    (afterSlots r s).sched.roundList = (stationStep r (s.setEngine none)).1.sched.roundList := by
  unfold afterSlots
  simp

/-- The state after the first four steps. -/
def afterDisable (r : Report) (s : State) : State := disableStep r (afterSlots r s)

theorem afterDisable_fields (r : Report) (s : State) :
    (afterDisable r s).link = s.link ∧ (afterDisable r s).time = s.time ∧ (afterDisable r s).clock = s.clock ∧
      (afterDisable r s).engine = none ∧ (afterDisable r s).sched.roundTimer = s.sched.roundTimer ∧
      (afterDisable r s).sched.burstCounter = s.sched.burstCounter ∧ (afterDisable r s).notes = (afterSlots r s).notes := by
  obtain ⟨h1, h2, h3, h4, h5, h6, h7⟩ := afterSlots_fields r s
  unfold afterDisable
  simp [h1, h2, h3, h4, h6, h7]

theorem afterDisable_other {r : Report} {s : State} {m : StationId} (h : r.job.station? ≠ some m) :
    (afterDisable r s).station m = s.station m := by
  unfold afterDisable
  rcases disableStep_cases r (afterSlots r s) with e | ⟨n, hn, _, e⟩ <;> rw [e]
  · exact afterSlots_other h
  · rw [applyDisable_station]
    have : n ≠ m := fun x => h (by rw [hn, x])
    simp [this, afterSlots_other h]

theorem afterDisable_roundList {r : Report} {s : State} {n : StationId} (h : r.job.station? = some n) :
    (afterDisable r s).sched.roundList = s.sched.roundList.filter (fun i => i.station ≠ n) ∨
      ((afterDisable r s).sched.roundList = s.sched.roundList ∧
        ((s.station n).served = true → ((afterDisable r s).station n).served = true)) := by
  have hl : (afterSlots r s).sched.roundList = s.sched.roundList.filter (fun i => i.station ≠ n) ∨
      ((afterSlots r s).sched.roundList = s.sched.roundList ∧
        ((s.station n).served = true → ((afterSlots r s).station n).served = true)) := by
    have e0 := stationStep_roundList (s := s.setEngine none) h
    rw [afterSlots_roundList]
    by_cases ht : (((s.setEngine none).station n).report r).2 = some .isolated ∨
        (((s.setEngine none).station n).report r).2 = some .lost
    · rw [if_pos ht] at e0
      exact Or.inl e0
    · rw [if_neg ht] at e0
      rw [setEngine_station] at ht
      right
      refine ⟨e0, fun hs => ?_⟩
      have e := (afterSlots_target (s := s) h).1
      rw [Station.report_state] at e
      unfold Station.served at hs ⊢
      rw [e]
      unfold stateAfter
      split <;> simp_all
  unfold afterDisable
  rcases disableStep_cases r (afterSlots r s) with e | ⟨m, hm, _, e⟩ <;> rw [e]
  · exact hl
  · left
    rw [h] at hm
    injection hm with hm
    subst hm
    rw [applyDisable_eq]
    dsimp only
    rcases hl with hl | ⟨hl, _⟩ <;> rw [hl]
    rw [List.filter_filter]
    simp

theorem afterDisable_noTarget {r : Report} {s : State} (h : r.job.station? = none) :
    (afterDisable r s).sched.roundList = s.sched.roundList ∧
      (afterDisable r s).sched.discovery = s.sched.discovery := by
  have e : disableStep r (afterSlots r s) = afterSlots r s := by
    unfold disableStep; rw [h]
  unfold afterDisable
  rw [e, afterSlots_roundList, stationStep_no_target h]
  exact ⟨rfl, (afterSlots_fields r s).2.2.2.2.1⟩

theorem afterDisable_sublists (r : Report) (s : State) :
    (afterDisable r s).sched.roundList.Sublist s.sched.roundList ∧
      (afterDisable r s).sched.discovery.Sublist s.sched.discovery := by
  constructor
  · cases h : r.job.station? with
    | none => rw [(afterDisable_noTarget h).1]
    | some n =>
      rcases afterDisable_roundList (s := s) h with e | ⟨e, _⟩ <;> rw [e]
      exact List.filter_sublist
  · have hd := (afterSlots_fields r s).2.2.2.2.1
    unfold afterDisable
    rcases disableStep_cases r (afterSlots r s) with e | ⟨n, _, _, e⟩ <;> rw [e]
    · rw [hd]
    · rw [applyDisable_eq]
      dsimp only
      rw [hd]
      exact List.filter_sublist
/-! ### Steps 1 to 4 on the tables -/

theorem State.Inv.activeFor {s : State} {e : Exchange} (h : s.Inv) (he : s.engine = some e) : s.activeFor e.job := by
  intro i
  have ha := h.service.2 i
  have hq := h.engine
  unfold State.engineOk at hq
  rw [he] at hq
  dsimp only at hq
  constructor
  · intro x
    rw [ha] at x
    unfold State.requestInFlight at x
    rw [he] at x
    dsimp only at x
    split at x
    · rename_i j k n g hj; exact ⟨k, n, g, by rw [hj, x.1]⟩
    all_goals exact x.elim
  · rintro ⟨k, n, g, hj⟩
    have := hq.2
    rw [hj] at this
    exact this.1

/-- The station of the job is served, for a job that is not a probe of a station that is ABSENT or ISOLATED. -/
theorem State.Inv.target {s : State} {e : Exchange} (h : s.Inv) (he : s.engine = some e) : s.targetAgrees e.job := by
  have hq := h.engine
  unfold State.engineOk at hq
  rw [he] at hq
  exact hq.1

theorem State.Inv.link_of_engine {s : State} {e : Exchange} (h : s.Inv) (he : s.engine = some e) :
    (s.link.state = .starting ∧ s.sched.roundList = [] ∧ s.sched.roundTimer = .stopped) ∨
    ((s.link.state = .running ∨ s.link.state = .holding) ∧ s.sched.discovery = [] ∧ s.sched.roundTimer ≠ .stopped) ∨
    s.link.state = .stopping := by
  have hl := h.link
  unfold State.linkOk at hl
  split at hl <;> simp_all

theorem State.Inv.lineErrors_of_engine {s : State} {e : Exchange} (h : s.Inv) (he : s.engine = some e) : s.link.lineErrors < 8 := by
  have hl := h.link
  unfold State.linkOk at hl
  split at hl <;> simp_all

theorem afterSlots_serviceListOk {s : State} {r : Report} (h : s.serviceListOk) (ha : s.activeFor r.job) (hr : r.sound) :
    (afterSlots r s).serviceListOk ∧ (afterSlots r s).noActive := by
  refine slotStep_serviceListOk ?_ ?_ hr
  · unfold State.serviceListOk at *
    simpa using h
  · intro i
    simpa using ha i

/-- A slot in service after the first three steps is for a station that takes requests. -/
theorem afterSlots_slotsServed {s : State} {r : Report} (h : s.serviceListOk) (ha : s.activeFor r.job) (hr : r.sound)
    (hs : s.slotsServed) : (afterSlots r s).slotsServed := by
  intro i hi
  have h1 := slotStep_inService (s := attentionStep r (stationStep r (s.setEngine none)).1)
    (t := (stationStep r (s.setEngine none)).2) (r := r) (i := i) (by unfold State.serviceListOk at *; simpa using h)
    (by intro j; simpa using ha j) hr hi
  simp only [attentionStep_slot, stationStep_slot, setEngine_slot] at h1
  obtain ⟨h1, h2, h3⟩ := h1
  obtain ⟨n, hn, hv⟩ := hs i h1
  refine ⟨n, by rw [← hn, ← h2]; rfl, ?_⟩
  by_cases hj : r.job.station? = some n
  · have ht : ¬((stationStep r (s.setEngine none)).2 = some .lost ∨ (stationStep r (s.setEngine none)).2 = some .isolated) :=
      fun x => h3 x n hj hn
    rw [stationStep_transition hj, setEngine_station] at ht
    have e := (afterSlots_target (s := s) hj).1
    rw [Station.report_state] at e
    unfold Station.served at hv ⊢
    rw [e]
    unfold stateAfter
    split <;> simp_all
  · rw [afterSlots_other hj]; exact hv

theorem applyDisable_slotsServed {s : State} {n : StationId} {t : Stamp} (hs : s.slotsServed)
    (ha : ∀ i, (s.slot i).state = .active → (s.slot i).station ≠ address n) : (applyDisable n t s).slotsServed := by
  intro i hi
  have h1 := failSlots_inService (p := fun sl => sl.isFor n) (o := .stationDisabled) (t := t) (i := i)
    (s := ((s.setStation n (s.station n).disable).removeRoundItem n).removeDiscoveryEntry n) hi
  obtain ⟨h1, h2, h3⟩ := h1
  simp only [removeDiscoveryEntry_slot, removeRoundItem_slot, setStation_slot] at h1 h2 h3
  obtain ⟨m, hm, hv⟩ := hs i h2
  have e : (applyDisable n t s).slot i = s.slot i := h1
  refine ⟨m, by rw [e, hm], ?_⟩
  rw [applyDisable_station]
  split
  · rename_i hnm
    subst hnm
    exact absurd hm (ha i (h3 (by simp [Slot.isFor, hm])))
  · exact hv

theorem applyDisable_serviceListOk {s : State} {n : StationId} {t : Stamp} (h : s.serviceListOk) :
    (applyDisable n t s).serviceListOk := by
  refine failSlots_serviceListOk _ _ _ ?_
  exact h

theorem applyDisable_active (n : StationId) (t : Stamp) (s : State) (i : SlotId) :
    ((applyDisable n t s).slot i).state = .active ↔ (s.slot i).state = .active :=
  failSlots_active _ _ _ _

theorem applyDisable_stationsOk {s : State} {n : StationId} {t : Stamp} (h : s.stationsOk) :
    (applyDisable n t s).stationsOk := by
  intro m
  rw [applyDisable_station]
  split
  · exact Station.disable_ok _
  · exact h m

/-- What the first four steps of a report leave of the tables. -/
theorem afterDisable_tables {s : State} {e : Exchange} {r : Report} (h : s.Inv) (he : s.engine = some e)
    (hj : r.job = e.job) (hr : r.sound) :
    (afterDisable r s).stationsOk ∧ (∀ m, ((afterDisable r s).station m).disablePending = false) ∧
      (afterDisable r s).serviceListOk ∧ (afterDisable r s).noActive ∧ (afterDisable r s).slotsServed := by
  have ha : s.activeFor r.job := by rw [hj]; exact h.activeFor he
  have hst : (afterSlots r s).stationsOk := by
    refine afterSlots_stationsOk h.stations ?_
    intro i k n g hx
    have := h.target he
    rw [← hj, hx] at this
    exact this
  obtain ⟨hl, hn⟩ := afterSlots_serviceListOk h.service.1 ha hr
  have hv := afterSlots_slotsServed h.service.1 ha hr h.law.1
  have hd : ∀ m, r.job.station? ≠ some m → (s.station m).disablePending = false := by
    intro m hm
    by_contra hx
    have := h.disablePending m (by simpa using hx)
    unfold State.inFlightWith at this
    rw [he] at this
    simp [← hj] at this
    exact hm this
  unfold afterDisable
  rcases disableStep_cases r (afterSlots r s) with e1 | ⟨n, hjn, hp, e1⟩
  · rw [e1]
    refine ⟨hst, fun m => ?_, hl, hn, hv⟩
    by_cases hm : r.job.station? = some m
    · unfold disableStep at e1
      rw [hm] at e1
      dsimp only at e1
      cases hx : ((afterSlots r s).station m).disablePending with
      | false => rfl
      | true =>
        rw [hx, if_pos rfl] at e1
        have := applyDisable_station m r.endTime (afterSlots r s) m
        rw [e1, if_pos rfl] at this
        rw [this] at hx
        simp [Station.disable, Station.clearAttention] at hx
    · rw [afterSlots_other hm]; exact hd m hm
  · rw [e1]
    refine ⟨applyDisable_stationsOk hst, fun m => ?_, applyDisable_serviceListOk hl, fun i => ?_, applyDisable_slotsServed hv ?_⟩
    · rw [applyDisable_station]
      split
      · rfl
      · rename_i hnm
        have : r.job.station? ≠ some m := by rw [hjn]; simpa using hnm
        rw [afterSlots_other this]; exact hd m this
    · rw [Ne, applyDisable_active]; exact hn i
    · intro i hx; exact absurd hx (hn i)

/-! ### Notifications -/

/-- An offer keeps what the queue's registers promise. -/
theorem offer_queueOk {u : NotificationUnit} (n : Notification) (s : State)
    (h : (s.setNotes u).queueOk) : (s.setNotes (u.offer n)).queueOk := by
  unfold State.queueOk at *
  simp only [setNotes_notes] at *
  rcases offer_cases u n with e | ⟨hl, e⟩ | ⟨hl, e⟩ <;> rw [e]
  · exact h
  · refine ⟨?_, h.2⟩
    simp; omega
  · refine ⟨h.1, ?_, h.2.2⟩
    simp
    split
    · simp
    · rename_i hx
      intro hy
      apply hx
      have h1 := congrArg BitVec.toNat hy
      have h2 := u.nqovr.isLt
      rw [BitVec.toNat_add] at h1
      apply BitVec.eq_of_toNat_eq
      simp at h1 ⊢
      omega

theorem queueOk_of_notes {s t : State} (h : s.queueOk) (e : t.notes = s.notes) : t.queueOk := by
  unfold State.queueOk at *
  rw [e]; exact h

theorem State.offer_queueOk {s : State} (n : Notification) (h : s.queueOk) : (s.offer n).queueOk :=
  Sys2Proof.Machine.offer_queueOk (u := s.notes) n s h

theorem stationStep_queueOk (r : Report) {s : State} (h : s.queueOk) : (stationStep r s).1.queueOk := by
  cases hn : r.job.station? with
  | none => rw [stationStep_no_target hn]; exact h
  | some n =>
    have e := stationStep_notes (s := s) hn
    cases ht : ((s.station n).report r).2 with
    | none => rw [ht] at e; exact queueOk_of_notes h e
    | some t =>
      rw [ht] at e
      exact queueOk_of_notes (State.offer_queueOk _ h) e

theorem attentionStep_queueOk (r : Report) {s : State} (h : s.queueOk) : (attentionStep r s).queueOk := by
  unfold attentionStep takeAttention
  dsimp only
  repeat' split
  all_goals first | exact h | exact State.offer_queueOk (s := State.setStation _ _ _) _ h

theorem afterSlots_queueOk (r : Report) {s : State} (h : s.queueOk) : (afterSlots r s).queueOk := by
  have := attentionStep_queueOk r (stationStep_queueOk r (s := s.setEngine none) h)
  exact queueOk_of_notes this (by unfold afterSlots; simp)

/-! ### The lists -/

theorem leaveRoundList_roundList (s : State) (n : StationId) :
    (s.leaveRoundList n).sched.roundList =
      (match s.sched.roundList with | x :: rest => if x.station = n then rest else s.sched.roundList | [] => s.sched.roundList) := by
  unfold State.leaveRoundList
  split
  · split <;> simp_all
  · simp_all

theorem leaveDiscovery_discovery (s : State) (n : StationId) :
    (s.leaveDiscovery n).sched.discovery =
      (match s.sched.discovery with | x :: rest => if x = n then rest else s.sched.discovery | [] => s.sched.discovery) := by
  unfold State.leaveDiscovery
  split
  · split <;> simp_all
  · simp_all

/-- The jobs of round items. -/
def Job.roundStation? : Job → Option StationId
  | .probe .absentStation n => some n
  | .probe .recovery n => some n
  | .poll n => some n
  | .probe .discovery _ | .probe .resync _ | .request _ _ _ _ | .attnAck _ | .timeMark => none

theorem leaveList_other {j : Job} {s : State} (h : j.roundStation? = none) (hd : ∀ n, j ≠ .probe .discovery n) :
    leaveList j s = s := by
  unfold leaveList
  split <;> first | rfl | (exact absurd rfl (hd _)) | (simp [Job.roundStation?] at h)

theorem leaveList_round {j : Job} {s : State} {n : StationId} (h : j.roundStation? = some n) :
    leaveList j s = s.leaveRoundList n := by
  unfold Job.roundStation? at h
  split at h <;> first | (injection h with h; subst h; rfl) | cases h

/-- A list's least entry is its head. -/
theorem head_least {L : List RoundItem} {n : StationId} {k : RoundItemKind}
    (hp : (L.map (fun i => i.station)).Pairwise (fun a b => a < b)) (h : L.head? = some ⟨n, k⟩) :
    ∀ i ∈ L, n ≤ i.station := by
  cases L with
  | nil => cases h
  | cons x rest =>
    simp only [List.head?_cons, Option.some.injEq] at h
    subst h
    simp only [List.map_cons, List.pairwise_cons, List.mem_map, forall_exists_index, and_imp, forall_apply_eq_imp_iff₂] at hp
    intro i hi
    rcases List.mem_cons.mp hi with e | e
    · rw [e]
    · exact le_of_lt (hp.1 i e)

theorem head_least' {L : List StationId} {n : StationId} (hp : L.Pairwise (fun a b => a < b)) (h : L.head? = some n) :
    ∀ i ∈ L, n ≤ i := by
  cases L with
  | nil => cases h
  | cons x rest =>
    simp only [List.head?_cons, Option.some.injEq] at h
    subst h
    rw [List.pairwise_cons] at hp
    intro i hi
    rcases List.mem_cons.mp hi with e | e
    · rw [e]
    · exact le_of_lt (hp.1 i e)

/-- R109: the head of the round list is the item of the exchange in flight, for a job of a round item. -/
theorem State.Inv.head_of_round {s : State} {e : Exchange} {n : StationId} (h : s.Inv) (he : s.engine = some e)
    (hn : e.job.roundStation? = some n) : ∃ k, s.sched.roundList.head? = some ⟨n, k⟩ := by
  have hq := h.engine
  unfold State.engineOk at hq
  rw [he] at hq
  dsimp only at hq
  have h2 := hq.2
  unfold Job.roundStation? at hn
  split at hn <;> first | cases hn; done | (injection hn with hn; subst hn; simp_all)

theorem Job.station?_of_roundStation? {j : Job} {n : StationId} (h : j.roundStation? = some n) : j.station? = some n := by
  rcases j with ⟨_ | _ | _ | _, m⟩ | m | _ | _ | _ <;> first | exact h | cases h

/-- R96: the jobs of STARTING. -/
theorem State.Inv.job_of_starting {s : State} {e : Exchange} (h : s.Inv) (he : s.engine = some e)
    (hs : s.link.state = .starting) :
    (∃ n, e.job = .probe .discovery n ∧ s.sched.discovery.head? = some n) ∨ e.job = .timeMark := by
  have hl := h.link
  unfold State.linkOk at hl
  rw [hs] at hl
  have hq := h.engine
  unfold State.engineOk at hq
  rw [he] at hq
  dsimp only at hq
  have hq2 := hq.2
  generalize e.job = j at *
  rcases j with ⟨_ | _ | _ | _, m⟩ | m | ⟨_, _, m, _⟩ | m | _ <;> dsimp only at hq2
  · exact Or.inl ⟨m, rfl, hq2⟩
  · rw [hl.2.1] at hq2; cases hq2
  · rw [hl.2.1] at hq2; cases hq2
  · exact absurd hs hq2
  · rw [hl.2.1] at hq2; cases hq2
  · exact absurd hs hq2.2
  · exact absurd hs hq2
  · exact Or.inr rfl

/-- A job that is not for an entry of a list is for a station that takes requests. -/
theorem served_of_target {s : State} {j : Job} {n : StationId} (h : s.targetAgrees j) (h1 : j.roundStation? = none)
    (h2 : ∀ m, j ≠ .probe .discovery m) (h3 : j.station? = some n) : (s.station n).served = true := by
  rcases j with ⟨_ | _ | _ | _, m⟩ | m | ⟨_, _, m, _⟩ | m | _
  · exact absurd rfl (h2 m)
  · cases h1
  · cases h1
  · injection h3 with h3; subst h3; exact h
  · cases h1
  · injection h3 with h3; subst h3; exact h
  · injection h3 with h3; subst h3; exact h
  · cases h3

/-- An item of a station that takes requests agrees with every state of it that takes requests. -/
theorem itemAgrees_of_served {s u : State} {i : RoundItem} (h : s.itemAgrees i) (h1 : (s.station i.station).served = true)
    (h2 : (u.station i.station).served = true) : u.itemAgrees i := by
  unfold State.itemAgrees Station.served at *
  split at h <;> simp_all

/-- The lists at the end of an exchange, once the entry whose exchange it was has left them.  `u` is the state after
step 6; its lists are those after step 4, or are empty. -/
theorem leaveList_listsOk {s u : State} {e : Exchange} {r : Report} (h : s.Inv) (he : s.engine = some e)
    (hj : r.job = e.job) (hst : ∀ m, u.station m = (afterDisable r s).station m)
    (hl : (u.sched.roundList = (afterDisable r s).sched.roundList ∧
        u.sched.discovery = (afterDisable r s).sched.discovery ∧ s.link.state ≠ .stopping) ∨
      (u.sched.roundList = [] ∧ u.sched.discovery = [])) : (leaveList r.job u).listsOk := by
  obtain ⟨p1, p2, p3, p4⟩ := h.lists
  have key : ∀ l d, ((leaveList r.job u).sched.roundList = l) → ((leaveList r.job u).sched.discovery = d) →
      ((l.map (fun i => i.station)).Pairwise (fun a b => a < b) ∧ (∀ i ∈ l, u.itemAgrees i) ∧
        d.Pairwise (fun a b => a < b) ∧ ∀ n ∈ d, (u.station n).state = .absent) → (leaveList r.job u).listsOk := by
    intro l d e1 e2 ⟨q1, q2, q3, q4⟩
    refine ⟨by rw [e1]; exact q1, ?_, by rw [e2]; exact q3, ?_⟩
    · intro i hi
      rw [e1] at hi
      have := q2 i hi
      unfold State.itemAgrees at *
      simpa using this
    · intro n hn
      rw [e2] at hn
      simpa using q4 n hn
  rcases hl with ⟨hr, hd, hns⟩ | ⟨hr, hd⟩
  · obtain ⟨sr, sd⟩ := afterDisable_sublists r s
    have pr : (u.sched.roundList.map (fun i => i.station)).Pairwise (fun a b => a < b) := by
      rw [hr]; exact p1.sublist (sr.map _)
    have pd : u.sched.discovery.Pairwise (fun a b => a < b) := by rw [hd]; exact p3.sublist sd
    have mr : ∀ i ∈ u.sched.roundList, i ∈ s.sched.roundList := by intro i hi; rw [hr] at hi; exact sr.subset hi
    have md : ∀ i ∈ u.sched.discovery, i ∈ s.sched.discovery := by intro i hi; rw [hd] at hi; exact sd.subset hi
    have other : ∀ i ∈ u.sched.roundList, r.job.station? ≠ some i.station → u.itemAgrees i := by
      intro i hi hne
      have := p2 i (mr i hi)
      unfold State.itemAgrees at *
      rw [hst, afterDisable_other hne]
      exact this
    have otherd : ∀ n ∈ u.sched.discovery, r.job.station? ≠ some n → (u.station n).state = .absent := by
      intro n hn hne
      rw [hst, afterDisable_other hne]
      exact p4 n (md n hn)
    rcases h.link_of_engine he with ⟨g1, g2, g3⟩ | ⟨g1, g2, g3⟩ | g1
    · have er : u.sched.roundList = [] := by
        have : ∀ i, i ∉ u.sched.roundList := by intro i hi; have := mr i hi; rw [g2] at this; cases this
        exact List.eq_nil_iff_forall_not_mem.mpr this
      rcases h.job_of_starting he g1 with ⟨n, hx, hq2⟩ | hx
      · rw [← hj] at hx
        have hlst := head_least' p3 hq2
        have e1 : leaveList r.job u = u.leaveDiscovery n := by rw [hx]; rfl
        refine key [] _ ?_ rfl ⟨List.Pairwise.nil, fun _ hi => (by cases hi), ?_, ?_⟩
        · have := leaveList_roundList r.job u
          rw [er] at this
          simpa using this
        · rcases leaveList_discovery r.job u with e2 | e2 <;> rw [e2]
          · exact pd
          · exact pd.tail
        · intro m hm
          have hm1 : m ≠ n := by
            rw [e1, leaveDiscovery_discovery] at hm
            exact not_mem_after_leave' pd (fun j hj => hlst j (md j hj)) hm
          have hm2 : m ∈ u.sched.discovery := by
            rcases leaveList_discovery r.job u with e2 | e2 <;> rw [e2] at hm
            · exact hm
            · exact List.mem_of_mem_tail hm
          exact otherd m hm2 (by rw [hx]; simp [Job.station?]; exact Ne.symm hm1)
      · rw [← hj] at hx
        have hnone : r.job.station? = none := by rw [hx]; rfl
        have e1 : leaveList r.job u = u := by rw [hx]; rfl
        refine key _ _ (by rw [e1]) (by rw [e1]) ⟨pr, ?_, pd, ?_⟩
        · intro i hi; exact other i hi (by rw [hnone]; simp)
        · intro n hn; exact otherd n hn (by rw [hnone]; simp)
    · have ed : u.sched.discovery = [] := by
        have : ∀ i, i ∉ u.sched.discovery := by intro i hi; have := md i hi; rw [g2] at this; cases this
        exact List.eq_nil_iff_forall_not_mem.mpr this
      have ed2 : (leaveList r.job u).sched.discovery = [] := by
        have := leaveList_discovery r.job u
        rw [ed] at this
        simpa using this
      cases hn : r.job.roundStation? with
      | some n =>
        have e1 := leaveList_round (s := u) hn
        obtain ⟨k, hk⟩ := h.head_of_round he (by rw [← hj]; exact hn)
        have hlst := head_least p1 hk
        have hjs := Job.station?_of_roundStation? hn
        refine key _ [] rfl ed2 ⟨?_, ?_, List.Pairwise.nil, fun _ hi => (by cases hi)⟩
        · rcases leaveList_roundList r.job u with e2 | e2 <;> rw [e2]
          · exact pr
          · rw [List.map_tail]; exact pr.tail
        · intro i hi
          have hi1 : i.station ≠ n := by
            rw [e1, leaveRoundList_roundList] at hi
            exact not_mem_after_leave pr (fun j hj => hlst j (mr j hj)) hi
          have hi2 : i ∈ u.sched.roundList := by
            rcases leaveList_roundList r.job u with e2 | e2 <;> rw [e2] at hi
            · exact hi
            · exact List.mem_of_mem_tail hi
          exact other i hi2 (by rw [hjs]; simp; exact Ne.symm hi1)
      | none =>
        have hnd : ∀ n, r.job ≠ .probe .discovery n := by
          intro n hn
          have hq := h.engine
          unfold State.engineOk at hq
          rw [he] at hq
          dsimp only at hq
          have hq2 := hq.2
          rw [← hj, hn, g2] at hq2
          cases hq2
        have e1 := leaveList_other (s := u) hn hnd
        refine key _ _ (by rw [e1]) (by rw [e1]) ⟨pr, ?_, pd, ?_⟩
        · intro i hi
          by_cases hi2 : r.job.station? = some i.station
          · have ht := h.target he
            rw [← hj] at ht
            have hserved := served_of_target ht hn hnd hi2
            rcases afterDisable_roundList (s := s) hi2 with e2 | ⟨_, e3⟩
            · rw [hr, e2, List.mem_filter] at hi
              simp at hi
            · exact itemAgrees_of_served (p2 i (mr i hi)) hserved (by rw [hst]; exact e3 hserved)
          · exact other i hi hi2
        · intro n hn2; rw [ed] at hn2; cases hn2
    · exact absurd g1 hns
  · refine key [] [] ?_ ?_ ⟨List.Pairwise.nil, fun _ hi => (by cases hi), List.Pairwise.nil, fun _ hi => (by cases hi)⟩
    · have := leaveList_roundList r.job u
      rw [hr] at this
      simpa using this
    · have := leaveList_discovery r.job u
      rw [hd] at this
      simpa using this

/-! ### Steps 5 and 6, and the whole report -/

/-- What is kept of the tables from step 4 on. -/
def State.tablesOk (s : State) : Prop :=
  s.stationsOk ∧ (∀ m, (s.station m).disablePending = false) ∧ s.serviceListOk ∧ s.noActive ∧ s.serviceLaw ∧ s.queueOk ∧
    s.configOk ∧ s.burstOk ∧ s.clocksAgree ∧ s.engine = none

/-- A state with its tables in order, its lists in order and its link in order keeps the invariant once what follows a
removal has followed. -/
theorem afterRemoval_inv_of_tables {s : State} (h : s.tablesOk) (hl : s.listsOk) (hk : s.linkAlmostOk) :
    (afterRemoval s).Inv := by
  obtain ⟨h1, h2, h3, h4, h5, h6, h7, h8, h9, h10⟩ := h
  refine afterRemoval_inv h1 (fun n hn => ?_) hk h8 ?_ ⟨h3, fun i => ?_⟩ h5 h6 h7 hl h9
  · rw [h2 n] at hn; cases hn
  · unfold State.engineOk; rw [h10]; trivial
  · unfold State.requestInFlight
    rw [h10]
    exact ⟨fun x => (h4 i x).elim, fun x => x.elim⟩

theorem afterDisable_tablesOk {s : State} {e : Exchange} {r : Report} (h : s.Inv) (he : s.engine = some e)
    (hj : r.job = e.job) (hr : r.sound) : (afterDisable r s).tablesOk := by
  obtain ⟨h1, h2, h3, h4, h5⟩ := afterDisable_tables h he hj hr
  obtain ⟨f1, f2, f3, f4, f5, f6, f7⟩ := afterDisable_fields r s
  have hns : s.link.state ≠ .stopped := by
    rcases h.link_of_engine he with ⟨g, _⟩ | ⟨g | g, _⟩ | g <;> rw [g] <;> simp
  refine ⟨h1, h2, h3, h4, ⟨h5, fun x => ?_⟩, queueOk_of_notes (afterSlots_queueOk r h.queue) f7, ?_, ?_, ?_, f4⟩
  · rw [f1] at x; exact absurd x hns
  · intro c; rw [f1]; exact h.config c
  · intro x; rw [f1, f6]; rw [f1] at x; exact h.burst x
  · unfold State.clocksAgree; rw [f2, f3]; exact h.clocks

theorem failAll_inService {s : State} {o : SlotOutcome} {t : Stamp} (ha : s.noActive) (i : SlotId) :
    ((failSlots (fun _ => true) o t s).slot i).inService = false := by
  by_contra hx
  obtain ⟨_, _, h3⟩ := failSlots_inService (by simpa using hx : ((failSlots (fun _ => true) o t s).slot i).inService = true)
  exact ha i (h3 rfl)

/-- R160: entering STOPPED with no exchange in flight keeps the tables, and leaves no slot in service. -/
theorem enterStopped_tablesOk {s : State} (t : Stamp) (h : s.tablesOk) : (enterStopped t s).tablesOk := by
  obtain ⟨h1, h2, h3, h4, h5, h6, h7, h8, h9, h10⟩ := h
  refine ⟨h1, h2,
    failSlots_serviceListOk (s := (s.setLinkState .stopped).setLinkFlag) (fun _ => true) .stopped t h3, fun i hi => ?_, ⟨fun i hi => ?_, fun _ i => ?_⟩, h6, h7, fun x => absurd rfl x,
    h9, h10⟩
  · exact h4 i ((failSlots_active (fun _ => true) .stopped t (s := (s.setLinkState .stopped).setLinkFlag) i).mp hi)
  · have := failAll_inService (o := .stopped) (t := t) (s := (s.setLinkState .stopped).setLinkFlag) h4 i
    have hi' : ((failSlots (fun _ => true) .stopped t ((s.setLinkState .stopped).setLinkFlag)).slot i).inService = true := hi
    rw [this] at hi'; cases hi'
  · exact failAll_inService (o := .stopped) (t := t) (s := (s.setLinkState .stopped).setLinkFlag) h4 i

theorem linkStep_tablesOk {r : Report} {s : State} (h : s.tablesOk) (hne : s.link.state ≠ .stopped) :
    (linkStep r s).tablesOk := by
  have h0 := h
  obtain ⟨h1, h2, h3, h4, h5, h6, h7, h8, h9, h10⟩ := h
  have hc : (s.setLink { s.link with lineErrors := countAfter s.link.lineErrors r.outcome }).tablesOk :=
    ⟨h1, h2, h3, h4, h5, h6, h7, h8, h9, h10⟩
  rcases linkStep_cases r s with ⟨_, _, e⟩ | ⟨_, _, e⟩ | ⟨_, _, e⟩ | ⟨_, e⟩ | ⟨_, e⟩ <;> rw [e]
  · exact hc
  · exact ⟨h1, h2, h3, h4, ⟨h5.1, fun x => by cases x⟩, h6, h7, fun _ => h8 hne, h9, h10⟩
  · exact ⟨h1, h2, h3, h4, ⟨h5.1, fun x => by cases x⟩, h6, h7, fun _ => h8 hne, h9, h10⟩
  · exact enterStopped_tablesOk _ hc
  · exact hc

theorem timeStep_tablesOk {r : Report} {s : State} (h : s.tablesOk) : (timeStep r s).tablesOk := by
  rcases timeStep_cases r s with e | e <;> rw [e]
  · exact h
  · exact h

theorem leaveList_tablesOk {j : Job} {s : State} (h : s.tablesOk) : (leaveList j s).tablesOk := by
  rw [leaveList_frame]
  exact h

/-- R37: a report leaves a state that keeps the invariant, whatever the outcome. -/
theorem takeReport_inv {s : State} {e : Exchange} {r : Report} (h : s.Inv) (he : s.engine = some e) (hj : r.job = e.job)
    (hr : r.sound) : (takeReport r s).Inv := by
  have hq : takeReport r s = afterRemoval (leaveList r.job (timeStep r (linkStep r (afterDisable r s)))) := rfl
  rw [hq]
  have hD := afterDisable_tablesOk h he hj hr
  obtain ⟨f1, f2, f3, f4, f5, f6, f7⟩ := afterDisable_fields r s
  have hle := h.lineErrors_of_engine he
  have hcase := h.link_of_engine he
  have hns : (afterDisable r s).link.state ≠ .stopped := by
    rw [f1]; rcases hcase with ⟨g, _⟩ | ⟨g | g, _⟩ | g <;> rw [g] <;> simp
  have hT := leaveList_tablesOk (j := r.job) (timeStep_tablesOk (r := r) (linkStep_tablesOk (r := r) hD hns))
  have hst : ∀ m, (timeStep r (linkStep r (afterDisable r s))).station m = (afterDisable r s).station m := by
    intro m
    rw [timeStep_frame, linkStep_frame]
    rfl
  obtain ⟨sr, sd⟩ := afterDisable_sublists r s
  have hlc := linkStep_cases r (afterDisable r s)
  rw [f1] at hlc
  dsimp only at hlc
  rcases hlc with ⟨g, lim, e1⟩ | ⟨g, lim, e1⟩ | ⟨g, lim, e1⟩ | ⟨g, e1⟩ | ⟨g, e1⟩
  · have hsched : (timeStep r (linkStep r (afterDisable r s))).sched = (afterDisable r s).sched := by
      rw [timeStep_frame, e1]; rfl
    have hlink : (timeStep r (linkStep r (afterDisable r s))).link =
        { s.link with lineErrors := countAfter s.link.lineErrors r.outcome } := by
      rw [timeStep_frame, e1]; rfl
    refine afterRemoval_inv_of_tables hT (leaveList_listsOk h he hj hst (Or.inl ⟨by rw [hsched], by rw [hsched], ?_⟩)) ?_
    · rcases g with g | g <;> rw [g] <;> simp
    · have hc := countAfter_lt hle lim
      rcases g with g | g
      · right
        obtain ⟨_, g2, g3⟩ : s.link.state = .starting ∧ s.sched.roundList = [] ∧ s.sched.roundTimer = .stopped := by
          rcases hcase with x | ⟨x | x, _⟩ | x
          · exact x
          all_goals (rw [g] at x; cases x)
        refine ⟨?_, ?_, ?_, ?_⟩
        · rw [leaveList_link, hlink]; exact g
        · have : (afterDisable r s).sched.roundList = [] := by rw [g2] at sr; exact List.sublist_nil.mp sr
          have e2 := leaveList_roundList r.job (timeStep r (linkStep r (afterDisable r s)))
          rw [hsched, this] at e2
          simpa using e2
        · rw [leaveList_sched_roundTimer, hsched, f5, g3]
        · rw [leaveList_link, hlink]; exact hc
      · left
        obtain ⟨g2, g3⟩ : s.sched.discovery = [] ∧ s.sched.roundTimer ≠ .stopped := by
          rcases hcase with ⟨x, _⟩ | ⟨_, x⟩ | x
          · rw [g] at x; cases x
          · exact x
          · rw [g] at x; cases x
        have hl2 : (leaveList r.job (timeStep r (linkStep r (afterDisable r s)))).link.state = .running := by
          rw [leaveList_link, hlink]; exact g
        unfold State.linkOk
        rw [hl2]
        refine ⟨?_, ?_, ?_⟩
        · have : (afterDisable r s).sched.discovery = [] := by rw [g2] at sd; exact List.sublist_nil.mp sd
          have e2 := leaveList_discovery r.job (timeStep r (linkStep r (afterDisable r s)))
          rw [hsched, this] at e2
          simpa using e2
        · rw [leaveList_sched_roundTimer, hsched, f5]; exact g3
        · rw [leaveList_link, hlink]; exact hc
  · have hs1 : (timeStep r (linkStep r (afterDisable r s))).sched.roundList = [] ∧
        (timeStep r (linkStep r (afterDisable r s))).sched.discovery = [] := by
      rw [timeStep_frame, e1]; exact ⟨rfl, rfl⟩
    refine afterRemoval_inv_of_tables hT (leaveList_listsOk h he hj hst (Or.inr hs1)) (Or.inl ?_)
    have e2 := leaveList_roundList r.job (timeStep r (linkStep r (afterDisable r s)))
    have e3 := leaveList_discovery r.job (timeStep r (linkStep r (afterDisable r s)))
    rw [hs1.1] at e2
    rw [hs1.2] at e3
    have hlink : (leaveList r.job (timeStep r (linkStep r (afterDisable r s)))).link.state = .faulted := by
      rw [leaveList_link, timeStep_frame, e1]; rfl
    have hcnt : (leaveList r.job (timeStep r (linkStep r (afterDisable r s)))).link.lineErrors =
        countAfter s.link.lineErrors r.outcome := by
      rw [leaveList_link, timeStep_frame, linkStep_frame, f1]
    unfold State.linkOk
    rw [hlink]
    refine ⟨?_, ?_, ?_, by simpa using e2, by simpa using e3, ?_, by rw [hcnt]; exact countAfter_le hle⟩
    · exact hT.2.2.2.2.2.2.2.2.2
    · rw [leaveList_time]
      rcases timeStep_cases r (linkStep r (afterDisable r s)) with e4 | e4 <;> rw [e4]
      · rw [e1]; rfl
      · rfl
    · rw [leaveList_time]
      rcases timeStep_cases r (linkStep r (afterDisable r s)) with e4 | e4 <;> rw [e4, e1] <;> rfl
    · rw [leaveList_sched_roundTimer, timeStep_frame, e1]; rfl
  · have hsched : (timeStep r (linkStep r (afterDisable r s))).sched = (afterDisable r s).sched := by
      rw [timeStep_frame, e1]; rfl
    refine afterRemoval_inv_of_tables hT (leaveList_listsOk h he hj hst (Or.inl ⟨by rw [hsched], by rw [hsched], ?_⟩))
      (Or.inl ?_)
    · rw [g]; simp
    · obtain ⟨g2, g3⟩ : s.sched.discovery = [] ∧ s.sched.roundTimer ≠ .stopped := by
        rcases hcase with ⟨x, _⟩ | ⟨_, x⟩ | x
        · rw [g] at x; cases x
        · exact x
        · rw [g] at x; cases x
      have hl2 : (leaveList r.job (timeStep r (linkStep r (afterDisable r s)))).link.state = .held := by
        rw [leaveList_link, timeStep_frame, e1]; rfl
      have hcnt : (leaveList r.job (timeStep r (linkStep r (afterDisable r s)))).link.lineErrors =
          countAfter s.link.lineErrors r.outcome := by
        rw [leaveList_link, timeStep_frame, linkStep_frame, f1]
      unfold State.linkOk
      rw [hl2]
      refine ⟨hT.2.2.2.2.2.2.2.2.2, ?_, ?_, by rw [hcnt]; exact countAfter_lt hle lim⟩
      · have : (afterDisable r s).sched.discovery = [] := by rw [g2] at sd; exact List.sublist_nil.mp sd
        have e2 := leaveList_discovery r.job (timeStep r (linkStep r (afterDisable r s)))
        rw [hsched, this] at e2
        simpa using e2
      · rw [leaveList_sched_roundTimer, hsched, f5]; exact g3
  · have hs1 : (timeStep r (linkStep r (afterDisable r s))).sched.roundList = [] ∧
        (timeStep r (linkStep r (afterDisable r s))).sched.discovery = [] := by
      rw [timeStep_frame, e1]; exact ⟨rfl, rfl⟩
    refine afterRemoval_inv_of_tables hT (leaveList_listsOk h he hj hst (Or.inr hs1)) (Or.inl ?_)
    have e2 := leaveList_roundList r.job (timeStep r (linkStep r (afterDisable r s)))
    have e3 := leaveList_discovery r.job (timeStep r (linkStep r (afterDisable r s)))
    rw [hs1.1] at e2
    rw [hs1.2] at e3
    have hlink : (leaveList r.job (timeStep r (linkStep r (afterDisable r s)))).link.state = .stopped := by
      rw [leaveList_link, timeStep_frame, e1]; rfl
    have hcnt : (leaveList r.job (timeStep r (linkStep r (afterDisable r s)))).link.lineErrors =
        countAfter s.link.lineErrors r.outcome := by
      rw [leaveList_link, timeStep_frame, linkStep_frame, f1]
    unfold State.linkOk
    rw [hlink]
    refine ⟨?_, ?_, ?_, by simpa using e2, by simpa using e3, ?_, by rw [hcnt]; exact countAfter_le hle⟩
    · exact hT.2.2.2.2.2.2.2.2.2
    · rw [leaveList_time]
      rcases timeStep_cases r (linkStep r (afterDisable r s)) with e4 | e4 <;> rw [e4]
      · rw [e1]; rfl
      · rfl
    · rw [leaveList_time]
      rcases timeStep_cases r (linkStep r (afterDisable r s)) with e4 | e4 <;> rw [e4, e1] <;> rfl
    · rw [leaveList_sched_roundTimer, timeStep_frame, e1]; rfl
  · exfalso
    rcases hcase with ⟨x, _⟩ | ⟨x | x, _⟩ | x <;> rw [x] at g <;> simp at g

end Sys2Proof.Machine
end

