-- ==== Sys2Proof/Laws/Line.lean ====
section
/-! SUPPORT. What the small operations of the line change: one lemma that says it whole, and the fields they leave. -/

namespace Sys2Proof.Machine

theorem stopFrame_eq (k : Nat) (s : State) :
    stopFrame k s = s.setReceiver (if k = 0 then s.receiver.restartCount s.clock else s.receiver) := by
  unfold stopFrame
  split <;> rfl

@[simp] theorem stopFrame_host (k : Nat) (s : State) : (stopFrame k s).host = s.host := by simp [stopFrame_eq]
@[simp] theorem stopFrame_link (k : Nat) (s : State) : (stopFrame k s).link = s.link := by simp [stopFrame_eq]
@[simp] theorem stopFrame_sched (k : Nat) (s : State) : (stopFrame k s).sched = s.sched := by simp [stopFrame_eq]
@[simp] theorem stopFrame_engine (k : Nat) (s : State) : (stopFrame k s).engine = s.engine := by simp [stopFrame_eq]
@[simp] theorem stopFrame_stations (k : Nat) (s : State) : (stopFrame k s).stations = s.stations := by
  simp [stopFrame_eq]
@[simp] theorem stopFrame_slots (k : Nat) (s : State) : (stopFrame k s).slots = s.slots := by simp [stopFrame_eq]
@[simp] theorem stopFrame_service (k : Nat) (s : State) : (stopFrame k s).service = s.service := by simp [stopFrame_eq]
@[simp] theorem stopFrame_notes (k : Nat) (s : State) : (stopFrame k s).notes = s.notes := by simp [stopFrame_eq]
@[simp] theorem stopFrame_time (k : Nat) (s : State) : (stopFrame k s).time = s.time := by simp [stopFrame_eq]
@[simp] theorem stopFrame_clock (k : Nat) (s : State) : (stopFrame k s).clock = s.clock := by simp [stopFrame_eq]
@[simp] theorem stopFrame_inReset (k : Nat) (s : State) : (stopFrame k s).inReset = s.inReset := by
  simp [stopFrame_eq]
@[simp] theorem stopFrame_clkRunning (k : Nat) (s : State) : (stopFrame k s).clkRunning = s.clkRunning := by
  simp [stopFrame_eq]
@[simp] theorem stopFrame_pending (k : Nat) (s : State) : (stopFrame k s).pending = s.pending := by simp [stopFrame_eq]

/-- The engine's record is all that taking up the wait again changes. -/
theorem resumeWait_eq (e : Exchange) (s : State) :
    resumeWait e s = s.setEngine (some { e with phase := .awaitingReply (s.windowExpiry e) }) := rfl

/-- A bad reply keeps its start and its bytes in the record (R23). -/
theorem findBad_eq (e : Exchange) (replyStart : Nat) (bytes : List Byte) (t : Nat) (s : State) :
    findBad e replyStart bytes t s =
      s.setEngine (some { e with phase := .quietWait replyStart bytes (s.quietDeadline replyStart t) }) := rfl

@[simp] theorem lineStayedLow_iff (v : Byte) (stopHigh : Bool) :
    lineStayedLow v stopHigh = true ↔ v = 0 ∧ stopHigh = false := by
  simp [lineStayedLow]

end Sys2Proof.Machine
end

