-- ==== Sys2Proof/Laws/Keeps.lean ====
section
/-! SUPPORT. What the events of the line, of the timers, of the scheduler and of the host keep of State.Inv. -/

namespace Sys2Proof.Machine

/-! ### Updates that the invariant does not look at -/

theorem setHost_inv {s : State} (x : HostUnit) (h : s.Inv) : (s.setHost x).Inv :=
  ⟨h.stations, h.disablePending, h.link, h.burst, h.engine, h.service, h.law, h.queue, h.config, h.lists, h.clocks⟩

theorem setReceiver_inv {s : State} (x : Receiver) (h : s.Inv) : (s.setReceiver x).Inv :=
  ⟨h.stations, h.disablePending, h.link, h.burst, h.engine, h.service, h.law, h.queue, h.config, h.lists, h.clocks⟩

theorem pending_inv {s : State} (x : List Instr) (h : s.Inv) : ({ s with pending := x } : State).Inv :=
  ⟨h.stations, h.disablePending, h.link, h.burst, h.engine, h.service, h.law, h.queue, h.config, h.lists, h.clocks⟩

theorem clkRunning_inv {s : State} (x : Bool) (h : s.Inv) : ({ s with clkRunning := x } : State).Inv :=
  ⟨h.stations, h.disablePending, h.link, h.burst, h.engine, h.service, h.law, h.queue, h.config, h.lists, h.clocks⟩

theorem releaseReset_inv {s : State} (x : Bool) (h : s.Inv) : (releaseReset x s).Inv := by
  unfold releaseReset
  split
  · exact ⟨h.stations, h.disablePending, h.link, h.burst, h.engine, h.service, h.law, h.queue, h.config, h.lists, h.clocks⟩
  · exact h

theorem rejectWrite_inv {s : State} (h : s.Inv) : s.rejectWrite.Inv :=
  ⟨h.stations, h.disablePending, h.link, h.burst, h.engine, h.service, h.law, h.queue, h.config, h.lists, h.clocks⟩

theorem takeSnapshot_inv {s : State} (h : s.Inv) : (takeSnapshot s).Inv :=
  ⟨h.stations, h.disablePending, h.link, h.burst, h.engine, h.service, h.law, h.queue, h.config, h.lists, h.clocks⟩

theorem readTime0_inv {s : State} (h : s.Inv) : (readTime0 s).Inv := setHost_inv _ (takeSnapshot_inv h)

theorem readSlrply_inv {s : State} (h : s.Inv) : (readSlrply s).Inv := setHost_inv _ (setHost_inv _ h)

theorem tick_inv {s : State} (h : s.Inv) : (tick s).Inv := by
  refine ⟨h.stations, h.disablePending, h.link, h.burst, h.engine, h.service, h.law, h.queue, h.config, h.lists, ?_⟩
  have := h.clocks
  unfold State.clocksAgree tick at *
  simp only [setTime_time]
  rw [this, BitVec.ofNat_add]
  rfl

/-- An update of the exchange's progress: the job stays. -/
theorem setPhase_inv {s : State} {e : Exchange} (p : Phase) (he : s.engine = some e) (h : s.Inv) :
    (s.setEngine (some { e with phase := p })).Inv := by
  refine ⟨h.stations, fun n hn => ?_, ?_, h.burst, ?_, ⟨h.service.1, fun i => ?_⟩, h.law, h.queue, h.config, h.lists, h.clocks⟩
  · have := h.disablePending n hn
    unfold State.inFlightWith at *
    rw [he] at this
    exact this
  · have := h.link
    unfold State.linkOk at *
    rw [he] at this
    simp only [setEngine_link, setEngine_engine, setEngine_time, setEngine_sched]
    split at this <;> simp_all
  · have := h.engine
    unfold State.engineOk at *
    rw [he] at this
    exact this
  · have := h.service.2 i
    unfold State.requestInFlight at *
    rw [he] at this
    exact this

/-! ### The line -/

theorem endExchange_inv {s : State} {e : Exchange} {whole : Bool} {o : ExchangeOutcome} {reply : Option Reply} {t : Nat}
    (h : s.Inv) (he : s.engine = some e) (h1 : o = .good ∨ o = .refused → reply.isSome = true)
    (h2 : o = .sent → e.job = .timeMark) : (endExchange e whole o reply t s).Inv :=
  takeReport_inv h he rfl ⟨h1, h2⟩

theorem kind_outcome_ne_sent (k : ReplyKind) : k.outcome ≠ .sent := by cases k <;> simp [ReplyKind.outcome]

theorem engineTakes_inv {s : State} (v : Byte) (b : Bool) (t : Nat) (h : s.Inv) : (engineTakes v b t s).Inv := by
  unfold engineTakes
  split
  · rename_i e he
    split
    · unfold compareEcho
      split
      · split
        · exact setPhase_inv _ he h
        · split
          · rename_i hx; exact endExchange_inv h he (by simp) (fun _ => hx)
          · exact setPhase_inv _ he h
      · exact endExchange_inv h he (by simp) (by simp)
    · split
      · exact setPhase_inv _ he h
      · unfold judgeByte findBad
        split
        · exact setPhase_inv _ he h
        · exact setPhase_inv _ he h
        · exact endExchange_inv h he (fun _ => rfl) (fun x => absurd x (kind_outcome_ne_sent _))
    · exact h
    · exact h
  · exact h

theorem receiveByte_inv {s : State} (v : Byte) (b : Bool) (h : s.Inv) : (receiveByte v b s).Inv := by
  unfold receiveByte
  split
  · split
    · exact engineTakes_inv _ _ _ (setReceiver_inv _ h)
    · exact h
  · exact h

theorem stopFrame_inv {s : State} (k : Nat) (h : s.Inv) : (stopFrame k s).Inv := by
  unfold stopFrame
  split
  · exact setReceiver_inv _ h
  · exact h

theorem echoLimitPasses_inv {s : State} (h : s.Inv) : (echoLimitPasses s).Inv := by
  unfold echoLimitPasses
  split
  · rename_i e he
    split
    · dsimp only
      split
      · exact endExchange_inv (stopFrame_inv _ h) (by simpa using he) (by simp) (by simp)
      · exact h
    all_goals exact h
  · exact h

theorem windowExpires_inv {s : State} (h : s.Inv) : (windowExpires s).Inv := by
  unfold windowExpires
  repeat' split
  all_goals first
    | exact h
    | exact endExchange_inv (setReceiver_inv _ h) (by assumption) (by simp) (by simp)

theorem replyIsCutOff_inv {s : State} (h : s.Inv) : (replyIsCutOff s).Inv := by
  unfold replyIsCutOff decideQuiet findBad
  repeat' split
  all_goals first
    | exact h
    | exact endExchange_inv h (by assumption) (by simp) (by simp)
    | exact setPhase_inv _ (by assumption) h

theorem quietCountReached_inv {s : State} (h : s.Inv) : (quietCountReached s).Inv := by
  unfold quietCountReached decideQuiet
  repeat' split
  all_goals first
    | exact h
    | exact endExchange_inv h (by assumption) (by simp) (by simp)

theorem quietDeadlinePasses_inv {s : State} (h : s.Inv) : (quietDeadlinePasses s).Inv := by
  unfold quietDeadlinePasses
  repeat' split
  all_goals first
    | exact h
    | exact endExchange_inv h (by assumption) (by simp) (by simp)

theorem gapPasses_inv {s : State} (h : s.Inv) : (gapPasses s).Inv := by
  unfold gapPasses
  split
  · exact setReceiver_inv _ h
  · exact h

theorem fallingEdge_inv {s : State} (h : s.Inv) : (fallingEdge s).Inv := by
  unfold fallingEdge
  split
  · exact setReceiver_inv _ h
  · exact h

theorem seenHigh_inv {s : State} (h : s.Inv) : (seenHigh s).Inv := by
  unfold seenHigh
  split
  · exact setReceiver_inv _ h
  · exact h

theorem confirmStartBit_inv {s : State} (b : Bool) (h : s.Inv) : (confirmStartBit b s).Inv := by
  unfold confirmStartBit
  split
  · split
    · split
      · rename_i t _ _ _
        have h' := setReceiver_inv (s.receiver.confirm t s.bitTime) h
        unfold beginReply
        repeat' split
        all_goals first | exact h' | exact setPhase_inv _ (by assumption) h'
      · exact setReceiver_inv _ h
    · exact h
  · exact h

/-! ### Timers -/

theorem intervalExpires_inv {s : State} (h : s.Inv) : (intervalExpires s).Inv := by
  unfold intervalExpires
  split
  · rename_i t ht
    split
    · refine ⟨h.stations, h.disablePending, ?_, h.burst, ?_, h.service, h.law, h.queue, h.config, h.lists, h.clocks⟩
      · have := h.link
        unfold State.linkOk at *
        simp only [setTime_link, setTime_engine, setTime_sched]
        split at this <;> simp_all
      · have := h.engine
        unfold State.engineOk at *
        simp only [setTime_engine]
        split
        · trivial
        · rename_i e he
          have he' : s.engine = some e := he
          rw [he'] at this
          dsimp only at this
          refine ⟨this.1, ?_⟩
          have h2 := this.2
          split at h2 <;> first | exact h2 | rfl
    · exact h
  · exact h

theorem backoffExpires_inv {s : State} (i : SlotId) (h : s.Inv) : (backoffExpires i s).Inv := by
  unfold backoffExpires
  split
  · split
    · rename_i t ht hx
      have hin : (s.slot i).inService = true := by simp [Slot.inService, hx.1]
      refine ⟨h.stations, h.disablePending, h.link, h.burst, ?_, ⟨setSlot_serviceListOk h.service.1 ?_ ?_, fun j => ?_⟩,
        ⟨fun j hj => ?_, fun hl => ?_⟩, h.queue, h.config, h.lists, h.clocks⟩
      · have := h.engine
        unfold State.engineOk at *
        simp only [setSlot_engine]
        split
        · trivial
        · rename_i e he
          have he' : s.engine = some e := he
          rw [he'] at this
          dsimp only at this
          refine ⟨this.1, ?_⟩
          have h2 := this.2
          split at h2 <;> first | exact h2 | skip
          refine ⟨?_, h2.2⟩
          rw [setSlot_slot]
          split
          · rename_i hj; subst hj; rw [hx.1] at h2; cases h2.1
          · exact h2.1
      · rw [hin]; rfl
      · simp
      · have ha := h.service.2 j
        unfold State.requestInFlight at *
        simp only [setSlot_engine]
        rw [setSlot_slot]
        split
        · rename_i hj
          subst hj
          rw [hx.1] at ha
          simp only [reduceCtorEq, false_iff] at ha ⊢
          exact ha
        · exact ha
      · rw [setSlot_slot] at hj ⊢
        split at hj
        · rename_i e; subst e; simp; exact h.law.1 i hin
        · rename_i e; simp [e]; exact h.law.1 j hj
      · have := h.law.2 hl i
        rw [hin] at this; cases this
    · exact h
  · exact h

/-- A round that is due starts, and the invariant is kept. -/
theorem startRoundIfDue_inv {s : State} (h : s.Inv) : (startRoundIfDue s).Inv := by
  have e : completeDiscovery s = s := by
    unfold completeDiscovery
    split
    · rename_i hx
      have := h.link
      unfold State.linkOk at this
      rw [hx.1] at this
      exact absurd hx.2 this.1
    · rfl
  have := afterRemoval_inv h.stations h.disablePending (Or.inl h.link) h.burst h.engine h.service h.law h.queue h.config
    h.lists h.clocks
  unfold afterRemoval at this
  rwa [e] at this

theorem roundTimerExpires_inv {s : State} (h : s.Inv) : (roundTimerExpires s).Inv := by
  unfold roundTimerExpires
  split
  · rename_i t ht
    split
    · apply startRoundIfDue_inv
      refine ⟨h.stations, h.disablePending, ?_, h.burst, h.engine, h.service, h.law, h.queue, h.config, h.lists, h.clocks⟩
      have := h.link
      unfold State.linkOk at *
      simp only [setSched_link, setSched_engine, setSched_time, setSched_sched]
      split at this <;> simp_all
    · exact h
  · exact h
  · exact h
  · exact h

/-! ### The choice -/

theorem eligibleSlots_mem {s : State} {i : SlotId} (h : i ∈ s.eligibleSlots) :
    i ∈ s.service ∧ (s.slot i).state = .queued ∧ s.link.state = .running ∧
      s.stationServes (s.slot i).station = true := by
  unfold State.eligibleSlots at h
  obtain ⟨b, a, e, he⟩ := mem_eligibleAfter.mp h
  unfold State.eligible at he
  simp at he
  exact ⟨by rw [e]; simp, he.1.1.1, he.1.1.2, he.1.2⟩

/-- R95 to R101: what the job of a choice is, by the orders that can give it. -/
theorem availableJob?_cases {s : State} {j : Job} (h : s.availableJob? = some j) :
    (j = .timeMark ∧ s.time.pendingMark = true ∧ (s.link.state = .starting ∨ s.link.state = .running)) ∨
    (∃ n, j = .probe .discovery n ∧ s.link.state = .starting ∧ s.sched.discovery.head? = some n) ∨
    (s.link.state = .running ∧
      ((∃ n, j = .probe .resync n ∧ (s.station n).served = true) ∨ (∃ n, j = .attnAck n ∧ (s.station n).served = true) ∨
        (∃ x rest, s.sched.roundList = x :: rest ∧ j = x.job) ∨
        ∃ i n, j = .request i (s.slot i).kind n (s.station n).nextToggle ∧ (s.slot i).state = .queued ∧ i ∈ s.service ∧
          (s.slot i).station = address n ∧ (s.station n).served = true)) := by
  have req : ∀ i, s.chosenSlot? = some i → s.requestJob? i = some j →
      ∃ i n, j = .request i (s.slot i).kind n (s.station n).nextToggle ∧ (s.slot i).state = .queued ∧ i ∈ s.service ∧
          (s.slot i).station = address n ∧ (s.station n).served = true := by
    intro i hi hj
    obtain ⟨h1, h2, h3, h4⟩ := eligibleSlots_mem (mostUrgent_mem hi)
    unfold State.requestJob? at hj
    unfold State.stationServes at h4
    cases hn : stationAt? (s.slot i).station with
    | none => rw [hn] at hj; cases hj
    | some n =>
      rw [hn] at hj h4
      simp at hj h4
      exact ⟨i, n, hj.symm, h2, h1, eq_address_iff.mpr hn, h4.1.1⟩
  unfold State.availableJob? at h
  split at h
  · rename_i hs
    unfold State.startingJob? at h
    split at h
    · rename_i hp; injection h with h; exact Or.inl ⟨h.symm, hp, Or.inl hs⟩
    · right; left
      cases hd : s.sched.discovery.head? with
      | none => rw [hd] at h; cases h
      | some n => rw [hd] at h; simp at h; exact ⟨n, h.symm, hs, rfl⟩
  · rename_i hs
    unfold State.runningJob? at h
    split at h
    · rename_i hp; injection h with h; exact Or.inl ⟨h.symm, hp, Or.inr hs⟩
    · right; right
      refine ⟨hs, ?_⟩
      split at h
      · rename_i n hn
        injection h with h
        have := List.find?_some hn
        simp at this
        exact Or.inl ⟨n, h.symm, this.1⟩
      · split at h
        · rename_i n hn
          injection h with h
          have := List.find?_some hn
          simp at this
          exact Or.inr (Or.inl ⟨n, h.symm, this.1⟩)
        · right; right
          unfold State.burstJob? at h
          split at h
          · rename_i x rest hx
            split at h
            · injection h with h; exact Or.inl ⟨x, rest, hx, h.symm⟩
            · split at h
              · rename_i i hi; exact Or.inr (req i hi h)
              · injection h with h; exact Or.inl ⟨x, rest, hx, h.symm⟩
          · right
            cases hc : s.chosenSlot? with
            | none => rw [hc] at h; cases h
            | some i => rw [hc] at h; exact req i hc h
  all_goals cases h

theorem burstAfter_le {c : TimingConfig} {b : Nat} (j : Job) (h : b ≤ c.burst.toNat) :
    burstAfter c b j ≤ c.burst.toNat := by
  unfold burstAfter
  repeat' split
  all_goals omega

theorem startExchange_inv {s : State} {j : Job} (h : s.Inv) (hf : s.engine = none) (hj : s.availableJob? = some j) :
    (startExchange j s).Inv := by
  have hc := availableJob?_cases hj
  have hstate : s.link.state = .starting ∨ s.link.state = .running := by
    rcases hc with ⟨_, _, x⟩ | ⟨_, _, x, _⟩ | ⟨x, _⟩
    · exact x
    · exact Or.inl x
    · exact Or.inr x
  have hdp : ∀ n, (s.station n).disablePending = false := by
    intro n
    by_contra hx
    have := h.disablePending n (by simpa using hx)
    unfold State.inFlightWith at this
    rw [hf] at this
    cases this
  have hactive : ∀ i, (s.slot i).state ≠ .active := by
    intro i hx
    have := (h.service.2 i).mp hx
    unfold State.requestInFlight at this
    rw [hf] at this
    exact this
  have hlink : ∀ u : State, u.link = s.link → u.sched.discovery = s.sched.discovery → u.sched.roundList = s.sched.roundList →
      u.sched.roundTimer = s.sched.roundTimer → u.linkOk := by
    intro u e1 e2 e3 e4
    have := h.link
    unfold State.linkOk at *
    rw [e1, e2, e3, e4]
    rcases hstate with x | x <;> rw [x] at this ⊢ <;> exact this
  have hburst : ∀ u : State, u.link = s.link → u.sched.burstCounter = burstAfter s.link.config s.sched.burstCounter j → u.burstOk := by
    intro u e1 e2 hx
    rw [e1, e2]
    rw [e1] at hx
    exact burstAfter_le j (h.burst hx)
  by_cases hreq : ∃ i k n g, j = .request i k n g
  · obtain ⟨i, k, n, g, hjr⟩ := hreq
    subst hjr
    obtain ⟨hq, hi, ha, hv⟩ : (s.slot i).state = .queued ∧ i ∈ s.service ∧ (s.slot i).station = address n ∧ (s.station n).served = true := by
      rcases hc with ⟨x, _⟩ | ⟨_, x, _⟩ | ⟨_, ⟨_, x, _⟩ | ⟨_, x, _⟩ | ⟨x, _, _, y⟩ | ⟨i', n', x, y1, y2, y3, y4⟩⟩
      · cases x
      · cases x
      · cases x
      · cases x
      · unfold RoundItem.job at y; split at y <;> cases y
      · injection x with x1 x2 x3; subst x1; subst x3; exact ⟨y1, y2, y3, y4⟩
    have hrun : s.link.state = .running := by
      rcases hc with ⟨x, _⟩ | ⟨_, x, _⟩ | ⟨x, _⟩
      · cases x
      · cases x
      · exact x
    have hin : (s.slot i).inService = true := by simp [Slot.inService, hq]
    have hb : (s.slot i).backoff = none := by
      have := h.service.1.2.2 i
      rw [hq] at this
      simpa using this
    have hsl : ∀ m, (startExchange (.request i k n g) s).slot m = if i = m then { s.slot i with state := .active } else s.slot m :=
      fun m => setSlot_slot s i m _
    refine ⟨h.stations, fun m hm => ?_, hlink _ rfl rfl rfl rfl, hburst _ rfl rfl, ⟨hv, ?_, ?_⟩,
      ⟨?_, fun m => ?_⟩, ⟨fun m hm => ?_, fun hx => ?_⟩, h.queue, h.config, h.lists, h.clocks⟩
    · have : (s.station m).disablePending = true := hm
      rw [hdp m] at this; cases this
    · rw [hsl, if_pos rfl]
    · show s.link.state ≠ .starting
      rw [hrun]; simp
    · have := setSlot_serviceListOk (i := i) (x := { s.slot i with state := .active }) h.service.1
        (by rw [hin]; rfl) (by simp [hb])
      exact this
    · rw [hsl]
      show _ ↔ (i = m ∧ ((startExchange (.request i k n g) s).slot m).station = address n)
      rw [hsl]
      split
      · rename_i e; subst e; simp [ha]
      · rename_i e; simp [e, hactive m]
    · rw [hsl] at hm ⊢
      split at hm
      · rename_i e; subst e; simp only [if_true]; exact ⟨n, ha, hv⟩
      · rename_i e; rw [if_neg e]; exact h.law.1 m hm
    · have : s.link.state = .stopped := hx
      rw [hrun] at this; cases this
  · have hact : activateSlot j s = s := by
      unfold activateSlot
      split
      · exact absurd ⟨_, _, _, _, rfl⟩ hreq
      all_goals rfl
    have he : startExchange j s = (s.setEngine (some { job := j, frame := s.buildFrame j, startedAt := s.clock, phase := .transmitting 0 })).setSched
        { s.sched with burstCounter := burstAfter s.link.config s.sched.burstCounter j } := by
      unfold startExchange
      rw [hact]
      rfl
    rw [he]
    refine ⟨h.stations, fun m hm => ?_, hlink _ rfl rfl rfl rfl, hburst _ rfl rfl, ?_,
      ⟨h.service.1, fun m => ?_⟩, ⟨h.law.1, h.law.2⟩, h.queue, h.config, h.lists, h.clocks⟩
    · have : (s.station m).disablePending = true := hm
      rw [hdp m] at this; cases this
    · have hl := h.link
      rcases hc with ⟨rfl, x, _⟩ | ⟨n, rfl, x, y⟩ | ⟨x, ⟨n, rfl, y⟩ | ⟨n, rfl, y⟩ | ⟨it, rest, y, rfl⟩ | ⟨i', n', x, _⟩⟩
      · exact ⟨trivial, x⟩
      · refine ⟨?_, y⟩
        have := h.lists.2.2.2 n (List.mem_of_mem_head? y)
        exact this
      · refine ⟨y, ?_⟩
        show s.link.state ≠ .starting
        rw [x]; simp
      · refine ⟨y, ?_⟩
        show s.link.state ≠ .starting
        rw [x]; simp
      · have hag := h.lists.2.1 it (by rw [y]; simp)
        obtain ⟨n, k⟩ := it
        unfold State.itemAgrees at hag
        have hh : s.sched.roundList.head? = some ⟨n, k⟩ := by rw [y]; rfl
        cases k <;> exact ⟨hag, hh⟩
      · exact absurd ⟨_, _, _, _, x⟩ hreq
    · have := h.service.2 m
      constructor
      · intro x; exact absurd x (hactive m)
      · intro x
        unfold State.requestInFlight at x
        simp only [setSched_engine, setEngine_engine] at x
        split at x
        · exact absurd ⟨_, _, _, _, rfl⟩ hreq
        all_goals exact x.elim

theorem schedulerChooses_inv {s : State} (h : s.Inv) : (schedulerChooses s).Inv := by
  unfold schedulerChooses
  split
  · rename_i hf
    unfold State.lineFree at hf
    simp at hf
    split
    · rename_i j hj; exact startExchange_inv h hf.1 hj
    · exact h
  · exact h

end Sys2Proof.Machine
end

