-- ==== Sys2Proof/Laws/KeepsHost.lean ====
section
/-! SUPPORT. What the writes and the commands of the host keep of State.Inv. -/

namespace Sys2Proof.Machine

theorem setNotes_inv {s : State} {u : NotificationUnit} (h : s.Inv) (hu : (s.setNotes u).queueOk) : (s.setNotes u).Inv :=
  ⟨h.stations, h.disablePending, h.link, h.burst, h.engine, h.service, h.law, hu, h.config, h.lists, h.clocks⟩

theorem popQueue_inv {s : State} (h : s.Inv) : (popQueue s).1.Inv := by
  unfold popQueue
  split
  · exact h
  · rename_i x rest hq
    refine setNotes_inv h ?_
    have := h.queue
    unfold State.queueOk at *
    rw [hq] at this
    simp at this ⊢
    exact ⟨by omega, this.2⟩

/-- An update of an entry that keeps its state, and what depends on it. -/
theorem setStation_inv {s : State} {n : StationId} {x : Station} (h : s.Inv) (hx : x.ok)
    (hs : x.state = (s.station n).state) (hd : x.disablePending = true → s.inFlightWith n = true) : (s.setStation n x).Inv := by
  have st : ∀ m, ((s.setStation n x).station m).state = (s.station m).state := by
    intro m
    rw [setStation_station]
    split
    · rename_i e; subst e; exact hs
    · rfl
  have sv : ∀ m, ((s.setStation n x).station m).served = (s.station m).served := by
    intro m; unfold Station.served; rw [st]
  refine ⟨fun m => ?_, fun m hm => ?_, h.link, h.burst, ?_, ⟨h.service.1, h.service.2⟩, ⟨fun i hi => ?_, h.law.2⟩, h.queue,
    h.config, ⟨h.lists.1, fun i hi => ?_, h.lists.2.2.1, fun m hm => ?_⟩, h.clocks⟩
  · rw [setStation_station]
    split
    · exact hx
    · exact h.stations m
  · rw [setStation_station] at hm
    split at hm
    · rename_i e; subst e; exact hd hm
    · exact h.disablePending m hm
  · have := h.engine
    unfold State.engineOk State.targetAgrees at *
    simp only [sv, st]
    exact this
  · obtain ⟨m, h1, h2⟩ := h.law.1 i hi
    exact ⟨m, h1, by rw [sv]; exact h2⟩
  · have := h.lists.2.1 i hi
    unfold State.itemAgrees at *
    simp only [sv, st]
    exact this
  · rw [st]; exact h.lists.2.2.2 m hm

theorem Station.clearAttn_fields (st : Station) :
    st.clearAttn.1.state = st.state ∧ st.clearAttn.1.disablePending = st.disablePending := by
  unfold Station.clearAttn
  repeat' split
  all_goals exact ⟨rfl, rfl⟩

theorem clearStationAttn_inv {s : State} (n : StationId) (h : s.Inv) : (clearStationAttn n s).1.Inv := by
  obtain ⟨e1, e2⟩ := Station.clearAttn_fields (s.station n)
  exact setStation_inv h (Station.clearAttn_ok (h.stations n)) e1 (fun x => h.disablePending n (by rw [← e2]; exact x))

theorem writeStcfg_inv {s : State} (v : Byte) (h : s.Inv) : (writeStcfg v s).Inv := by
  unfold writeStcfg
  split
  · exact setStation_inv h (Station.configure_ok _ _ (h.stations _)) rfl (fun x => h.disablePending _ x)
  · exact rejectWrite_inv h

theorem enableStation_inv {s : State} (n : StationId) (h : s.Inv) : (enableStation n s).1.Inv := by
  unfold enableStation
  split
  · rename_i hu
    have ne : ∀ m, (s.station m).state ≠ .unused → m ≠ n := by rintro m hm rfl; exact hm hu
    have same : ∀ m, (s.station m).state ≠ .unused → (s.setStation n (s.station n).enable).station m = s.station m := by
      intro m hm
      rw [setStation_station_other _ (ne m hm).symm]
    have served : ∀ m, (s.station m).served = true → ((s.setStation n (s.station n).enable).station m).served = true := by
      intro m hm
      rw [same m (by unfold Station.served at hm; intro e; rw [e] at hm; simp at hm)]
      exact hm
    refine ⟨fun m => ?_, fun m hm => ?_, h.link, h.burst, ?_, ⟨h.service.1, h.service.2⟩, ⟨fun i hi => ?_, h.law.2⟩, h.queue,
      h.config, ⟨h.lists.1, fun i hi => ?_, h.lists.2.2.1, fun m hm => ?_⟩, h.clocks⟩
    · rw [setStation_station]
      split
      · exact Station.enable_ok (h.stations n) hu
      · exact h.stations m
    · rw [setStation_station] at hm
      split at hm
      · rename_i e; subst e; exact h.disablePending n hm
      · exact h.disablePending m hm
    · have hq := h.engine
      unfold State.engineOk at *
      simp only [setStation_engine]
      split
      · trivial
      · rename_i e he
        have he' : s.engine = some e := he
        rw [he'] at hq
        dsimp only at hq
        refine ⟨?_, hq.2⟩
        have ht := hq.1
        unfold State.targetAgrees at ht ⊢
        split at ht
        · rw [same _ (by rw [ht]; simp)]; exact ht
        · rw [same _ (by rw [ht]; simp)]; exact ht
        · rw [same _ (by rw [ht]; simp)]; exact ht
        · exact served _ ht
        · exact served _ ht
        · exact served _ ht
        · exact served _ ht
        · trivial
    · obtain ⟨m, h1, h2⟩ := h.law.1 i hi
      exact ⟨m, h1, served m h2⟩
    · have := h.lists.2.1 i hi
      unfold State.itemAgrees at *
      split at this
      · exact served _ this
      · rw [same _ (by rw [this]; simp)]; exact this
      · rw [same _ (by rw [this]; simp)]; exact this
    · have := h.lists.2.2.2 m hm
      rw [same _ (by rw [this]; simp)]; exact this
  · exact h

theorem filter_head? {α : Type} {L : List α} {p : α → Bool} {x : α} (h : L.head? = some x) (hp : p x = true) :
    (L.filter p).head? = some x := by
  cases L with
  | nil => cases h
  | cons y rest =>
    injection h with h
    subst h
    rw [List.filter_cons_of_pos hp]
    rfl

theorem disableStation_inv {s : State} (n : StationId) (h : s.Inv) : (disableStation n s).1.Inv := by
  unfold disableStation
  split
  · exact h
  · rename_i hu
    split
    · rename_i hf
      exact setStation_inv h (Station.disablePending_ok (h.stations n) hu) rfl (fun _ => hf)
    · rename_i hf
      have hst : ∀ m, m ≠ n → (applyDisable n s.time.counter s).station m = s.station m := by
        intro m hm
        rw [applyDisable_station, if_neg hm.symm]
      have hsub : (applyDisable n s.time.counter s).sched.roundList.Sublist s.sched.roundList := by
        rw [applyDisable_eq]; exact List.filter_sublist
      have hsubd : (applyDisable n s.time.counter s).sched.discovery.Sublist s.sched.discovery := by
        rw [applyDisable_eq]; exact List.filter_sublist
      have hact : ∀ i, (s.slot i).state = .active → (s.slot i).station ≠ address n := by
        intro i hi hx
        have := (h.service.2 i).mp hi
        unfold State.requestInFlight at this
        unfold State.inFlightWith at hf
        split at this
        · rename_i e he
          rw [he] at hf
          split at this
          · rename_i j k m g hj
            dsimp only at hf
            rw [hj] at hf
            simp [Job.station?] at hf
            rw [this.2] at hx
            exact hf (address_injective hx)
          all_goals exact this
        · exact this
      have htarget : ∀ e, s.engine = some e → ∀ m, e.job.station? = some m → m ≠ n := by
        rintro e he m hm rfl
        unfold State.inFlightWith at hf
        rw [he] at hf
        simp [hm] at hf
      refine afterRemoval_inv (applyDisable_stationsOk h.stations) (fun m hm => ?_) ?_ h.burst ?_
        ⟨applyDisable_serviceListOk h.service.1, fun i => ?_⟩ ⟨applyDisable_slotsServed h.law.1 hact, fun hl i => ?_⟩ h.queue h.config
        ⟨h.lists.1.sublist (hsub.map _), fun i hi => ?_, h.lists.2.2.1.sublist hsubd, fun m hm => ?_⟩ h.clocks
      · by_cases hmn : m = n
        · subst hmn
          rw [applyDisable_station, if_pos rfl] at hm
          simp [Station.disable, Station.clearAttention] at hm
        · rw [hst m hmn] at hm
          exact h.disablePending m hm
      · have hl := h.link
        have r0 : s.sched.roundList = [] → (applyDisable n s.time.counter s).sched.roundList = [] := by
          intro x; rw [x] at hsub; exact List.sublist_nil.mp hsub
        have d0 : s.sched.discovery = [] → (applyDisable n s.time.counter s).sched.discovery = [] := by
          intro x; rw [x] at hsubd; exact List.sublist_nil.mp hsubd
        unfold State.linkAlmostOk
        by_cases hs : s.link.state = .starting
        · right
          unfold State.linkOk at hl
          rw [hs] at hl
          exact ⟨hs, r0 hl.2.1, hl.2.2.1, hl.2.2.2⟩
        · left
          unfold State.linkOk at *
          have e1 : (applyDisable n s.time.counter s).link = s.link := rfl
          have e2 : (applyDisable n s.time.counter s).engine = s.engine := rfl
          have e3 : (applyDisable n s.time.counter s).time = s.time := rfl
          have e4 : (applyDisable n s.time.counter s).sched.roundTimer = s.sched.roundTimer := rfl
          rw [e1, e2, e3, e4]
          split at hl
          · exact ⟨hl.1, hl.2.1, hl.2.2.1, r0 hl.2.2.2.1, d0 hl.2.2.2.2.1, hl.2.2.2.2.2⟩
          · exact ⟨hl.1, hl.2.1, hl.2.2.1, r0 hl.2.2.2.1, d0 hl.2.2.2.2.1, hl.2.2.2.2.2⟩
          · rename_i x; exact absurd x hs
          · exact ⟨d0 hl.1, hl.2⟩
          · exact ⟨hl.1, d0 hl.2.1, hl.2.2⟩
          · exact ⟨hl.1, d0 hl.2.1, hl.2.2⟩
          · exact hl
      · have hq := h.engine
        unfold State.engineOk at *
        have e2 : (applyDisable n s.time.counter s).engine = s.engine := rfl
        rw [e2]
        split
        · trivial
        · rename_i e he
          rw [he] at hq
          dsimp only at hq
          have ht := htarget e he
          obtain ⟨hq1, hq2⟩ := hq
          generalize e.job = j at *
          have er : (applyDisable n s.time.counter s).sched.roundList = s.sched.roundList.filter (fun i => i.station ≠ n) := by
            rw [applyDisable_eq]
          have ed : (applyDisable n s.time.counter s).sched.discovery = s.sched.discovery.filter (fun m => m ≠ n) := by
            rw [applyDisable_eq]
          have ea : ∀ i, (s.slot i).state = .active → ((applyDisable n s.time.counter s).slot i).state = .active := by
            intro i; exact (applyDisable_active n _ s i).mpr
          rcases j with ⟨_ | _ | _ | _, m⟩ | m | ⟨i, _, m, _⟩ | m | _ <;> dsimp only at hq2 ⊢
          · have hm := ht m rfl
            refine ⟨?_, ?_⟩
            · show ((applyDisable n s.time.counter s).station m).state = .absent
              rw [hst m hm]; exact hq1
            · rw [ed]; exact filter_head? hq2 (by simpa using hm)
          · have hm := ht m rfl
            refine ⟨?_, ?_⟩
            · show ((applyDisable n s.time.counter s).station m).state = .absent
              rw [hst m hm]; exact hq1
            · rw [er]; exact filter_head? hq2 (by simpa using hm)
          · have hm := ht m rfl
            refine ⟨?_, ?_⟩
            · show ((applyDisable n s.time.counter s).station m).state = .isolated
              rw [hst m hm]; exact hq1
            · rw [er]; exact filter_head? hq2 (by simpa using hm)
          · have hm := ht m rfl
            refine ⟨?_, hq2⟩
            show ((applyDisable n s.time.counter s).station m).served = true
            rw [hst m hm]; exact hq1
          · have hm := ht m rfl
            refine ⟨?_, ?_⟩
            · show ((applyDisable n s.time.counter s).station m).served = true
              rw [hst m hm]; exact hq1
            · rw [er]; exact filter_head? hq2 (by simpa using hm)
          · have hm := ht m rfl
            refine ⟨?_, ea i hq2.1, hq2.2⟩
            show ((applyDisable n s.time.counter s).station m).served = true
            rw [hst m hm]; exact hq1
          · have hm := ht m rfl
            refine ⟨?_, hq2⟩
            show ((applyDisable n s.time.counter s).station m).served = true
            rw [hst m hm]; exact hq1
          · exact ⟨trivial, hq2⟩
      · rw [applyDisable_active, h.service.2 i]
        unfold State.requestInFlight
        have e2 : (applyDisable n s.time.counter s).engine = s.engine := rfl
        have e5 : ((applyDisable n s.time.counter s).slot i).station = (s.slot i).station := by
          rcases failSlots_state (fun sl => sl.isFor n) .stationDisabled s.time.counter
            (((s.setStation n (s.station n).disable).removeRoundItem n).removeDiscoveryEntry n) i with ⟨x, _⟩ | ⟨_, _, x⟩
          · exact congrArg Slot.station x
          · exact x
        rw [e2, e5]
      · have := h.law.2 hl i
        by_contra hx
        have hx' : ((applyDisable n s.time.counter s).slot i).inService = true := by simpa using hx
        have h1 := failSlots_inService (p := fun sl => sl.isFor n) (o := .stationDisabled) (t := s.time.counter) (i := i)
          (s := ((s.setStation n (s.station n).disable).removeRoundItem n).removeDiscoveryEntry n) hx'
        have h2 : (s.slot i).inService = true := h1.2.1
        rw [this] at h2; cases h2
      · have hin : i.station ≠ n := by
          rw [applyDisable_eq] at hi
          have := (List.mem_filter.mp hi).2
          simpa using this
        have := h.lists.2.1 i (hsub.subset hi)
        unfold State.itemAgrees at *
        rw [hst _ hin]; exact this
      · have hin : m ≠ n := by
          rw [applyDisable_eq] at hm
          have := (List.mem_filter.mp hm).2
          simpa using this
        rw [hst _ hin]; exact h.lists.2.2.2 m (hsubd.subset hm)

/-! ### Slots -/

theorem setSlot_engineOk {s : State} {i : SlotId} {x : Slot} (h : s.engineOk) (hi : (s.slot i).state ≠ .active) :
    (s.setSlot i x).engineOk := by
  unfold State.engineOk at *
  simp only [setSlot_engine]
  split
  · trivial
  · rename_i e he
    rw [he] at h
    dsimp only at h
    refine ⟨h.1, ?_⟩
    have h2 := h.2
    split at h2 <;> first | exact h2 | skip
    refine ⟨?_, h2.2⟩
    rw [setSlot_slot]
    split
    · rename_i hj; subst hj; exact absurd h2.1 hi
    · exact h2.1

theorem setSlot_activeOk {s : State} {i : SlotId} {x : Slot} (h : s.activeOk) (_hi : (s.slot i).state ≠ .active)
    (hx : x.state ≠ .active) (hq : ∀ e k n g, s.engine = some e → e.job ≠ .request i k n g) : (s.setSlot i x).activeOk := by
  intro j
  have ha := h j
  unfold State.requestInFlight at *
  simp only [setSlot_engine]
  rw [setSlot_slot]
  split
  · rename_i hj
    subst hj
    constructor
    · intro y; exact absurd y hx
    · intro y
      split at y
      · rename_i e he
        split at y
        · rename_i j k n g hj; rw [y.1] at hj; exact absurd hj (hq e k n g he)
        all_goals exact y.elim
      · exact y.elim
  · exact ha

theorem State.Inv.not_requested {s : State} {i : SlotId} (h : s.Inv) (hi : (s.slot i).state ≠ .active) :
    ∀ e k n g, s.engine = some e → e.job ≠ .request i k n g := by
  intro e k n g he hj
  exact hi ((h.activeFor he i).mpr ⟨k, n, g, hj⟩)

/-- An update of a slot that is out of service and stays so. -/
theorem setSlot_inv {s : State} {i : SlotId} {x : Slot} (h : s.Inv) (hi : (s.slot i).inService = false)
    (hx : x.inService = false) (hb : x.backoff = none) : (s.setSlot i x).Inv := by
  have hia : (s.slot i).state ≠ .active := by intro e; simp [Slot.inService, e] at hi
  have hxa : x.state ≠ .active := by intro e; simp [Slot.inService, e] at hx
  have hxw : x.state ≠ .waiting := by intro e; simp [Slot.inService, e] at hx
  refine ⟨h.stations, h.disablePending, h.link, h.burst, setSlot_engineOk h.engine hia,
    ⟨setSlot_serviceListOk h.service.1 (by rw [hi, hx]) ?_, setSlot_activeOk h.service.2 hia hxa (h.not_requested hia)⟩,
    ⟨fun j hj => ?_, fun hl j => ?_⟩, h.queue, h.config, h.lists, h.clocks⟩
  · simp [hb, hxw]
  · rw [setSlot_slot] at hj ⊢
    split at hj
    · rw [hx] at hj; cases hj
    · rename_i e; rw [if_neg e]; exact h.law.1 j hj
  · rw [setSlot_slot]
    split
    · exact hx
    · exact h.law.2 hl j

theorem queueSlot_inv {s : State} (i : SlotId) (h : s.Inv) : (queueSlot i s).1.Inv := by
  unfold queueSlot
  split
  · exact h
  · rename_i hl
    simp at hl
    split
    · exact h
    · rename_i hk
      split
      · exact h
      · split
        · exact h
        · rename_i hd
          have hi : (s.slot i).inService = false := by simp [Slot.inService, hl]
          have hia : (s.slot i).state ≠ .active := by rw [hl]; simp
          have hb : (s.slot i).backoff = none := by
            have := h.service.1.2.2 i
            rw [hl] at this
            simpa using this
          have hni : i ∉ s.service := by rw [h.service.1.2.1 i, hi]; simp
          have hsv : ∃ n, (s.slot i).station = address n ∧ (s.station n).served = true := by
            unfold State.stationTakesRequests at hd
            split at hd
            · rename_i n hn
              simp at hd
              exact ⟨n, eq_address_iff.mpr hn, hd.1⟩
            · simp at hd
          have hns : s.link.state ≠ .stopped := by intro e; rw [e] at hk; simp [LinkState.takesQueue] at hk
          refine ⟨h.stations, h.disablePending, h.link, h.burst, setSlot_engineOk h.engine hia,
            ⟨⟨?_, fun j => ?_, fun j => ?_⟩, setSlot_activeOk h.service.2 hia (by simp [Slot.enqueue]) (h.not_requested hia)⟩,
            ⟨fun j hj => ?_, fun hx => absurd hx hns⟩, h.queue, h.config, h.lists, h.clocks⟩
          · show (s.service ++ [i]).Nodup
            rw [List.nodup_append]
            refine ⟨h.service.1.1, by simp, ?_⟩
            intro a ha b hb2 hab
            simp at hb2
            subst hb2; subst hab; exact hni ha
          · show j ∈ s.service ++ [i] ↔ ((s.setSlot i (s.slot i).enqueue).slot j).inService = true
            rw [setSlot_slot]
            split
            · rename_i e; subst e; simp [Slot.enqueue, Slot.inService]
            · rename_i e
              rw [← h.service.1.2.1 j]
              simp [Ne.symm e]
          · show ((s.setSlot i (s.slot i).enqueue).slot j).backoff.isSome = true ↔ ((s.setSlot i (s.slot i).enqueue).slot j).state = .waiting
            rw [setSlot_slot]
            split
            · simp [Slot.enqueue, hb]
            · exact h.service.1.2.2 j
          · have hj' : ((s.setSlot i (s.slot i).enqueue).slot j).inService = true := hj
            show ∃ n, ((s.setSlot i (s.slot i).enqueue).slot j).station = address n ∧ _
            rw [setSlot_slot] at hj' ⊢
            split at hj'
            · rename_i e; rw [if_pos e]; exact hsv
            · rename_i e; rw [if_neg e]; exact h.law.1 j hj'

theorem withdrawSlot_inv {s : State} (i : SlotId) (h : s.Inv) : (withdrawSlot i s).1.Inv := by
  have key : (s.slot i).state ≠ .active → ((s.setSlot i { s.slot i with state := .loaded, backoff := none }).leaveService i).Inv := by
    intro hia
    refine ⟨h.stations, h.disablePending, h.link, h.burst, setSlot_engineOk h.engine hia,
      ⟨leaveSlot_serviceListOk h.service.1 rfl rfl, setSlot_activeOk h.service.2 hia (by simp) (h.not_requested hia)⟩,
      ⟨fun j hj => ?_, fun hl j => ?_⟩, h.queue, h.config, h.lists, h.clocks⟩
    · rw [leaveService_slot, setSlot_slot] at hj ⊢
      split at hj
      · cases hj
      · rename_i e; rw [if_neg e]; exact h.law.1 j hj
    · rw [leaveService_slot, setSlot_slot]
      split
      · rfl
      · exact h.law.2 hl j
  unfold withdrawSlot
  split
  · rename_i hs; exact key (by rw [hs]; simp)
  · rename_i hs; exact key (by rw [hs]; simp)
  all_goals exact h

theorem releaseSlot_inv {s : State} (i : SlotId) (h : s.Inv) : (releaseSlot i s).1.Inv := by
  unfold releaseSlot
  split
  · rename_i hs; exact setSlot_inv h (by simp [Slot.inService, hs]) rfl rfl
  · rename_i hs; exact setSlot_inv h (by simp [Slot.inService, hs]) rfl rfl
  · rename_i hs; exact setSlot_inv h (by simp [Slot.inService, hs]) rfl rfl
  all_goals exact h

theorem State.Inv.backoff_of_hostOwned {s : State} {i : SlotId} (h : s.Inv) (hi : (s.slot i).hostOwned = true) :
    (s.slot i).inService = false ∧ (s.slot i).backoff = none := by
  have := h.service.1.2.2 i
  unfold Slot.hostOwned at hi
  unfold Slot.inService
  simp at hi
  rcases hi with e | e <;> rw [e] at this ⊢ <;> exact ⟨by simp, by simpa using this⟩

theorem Slot.writeField?_backoff {sl x : Slot} {f : SlotField} {v : Byte} (h : sl.writeField? f v = some x) :
    x.backoff = sl.backoff := by
  unfold Slot.writeField? at h
  split at h
  · split at h
    · injection h with h; rw [← h]
    · cases h
  · cases hk : SlotKind.ofByte? v with
    | none => rw [hk] at h; cases h
    | some k => rw [hk] at h; simp at h; rw [← h]
  · injection h with h; rw [← h]
  · injection h with h; rw [← h]
  · split at h
    · injection h with h; rw [← h]
    · cases h

theorem writeSlotField_inv {s : State} (f : SlotField) (v : Byte) (h : s.Inv) : (writeSlotField f v s).Inv := by
  unfold writeSlotField
  dsimp only
  split
  · rename_i ho
    obtain ⟨h1, h2⟩ := h.backoff_of_hostOwned ho
    split
    · rename_i x hx
      exact setSlot_inv h h1 rfl ((Slot.writeField?_backoff hx).trans h2)
    · exact rejectWrite_inv h
  · exact rejectWrite_inv h

theorem writeSlreq_inv {s : State} (v : Byte) (h : s.Inv) : (writeSlreq v s).Inv := by
  unfold writeSlreq
  dsimp only
  refine setHost_inv _ ?_
  split
  · rename_i ho
    obtain ⟨h1, h2⟩ := h.backoff_of_hostOwned ho
    exact setSlot_inv h h1 rfl h2
  · exact rejectWrite_inv h

/-! ### Settings -/

theorem writeConfig_inv {s : State} (r : ConfigRegister) (v : Byte) (h : s.Inv) : (writeConfig r v s).Inv := by
  unfold writeConfig
  split
  · rename_i hw
    have hk : (s.setLink { s.link with config := s.link.config.set r v }).Inv := by
      refine ⟨h.stations, h.disablePending, ?_, fun x => absurd hw.1 x, h.engine, h.service, h.law, h.queue, fun q => ?_,
        h.lists, h.clocks⟩
      · exact h.link
      · simp only [setLink_link]
        have := h.config q
        by_cases hqr : q = r
        · subst hqr
          have e : (s.link.config.set q v).get q = v := by cases q <;> rfl
          rw [e]; exact hw.2
        · have e : (s.link.config.set r v).get q = s.link.config.get q := by
            cases q <;> cases r <;> first | rfl | exact absurd rfl hqr
          rw [e]; exact this
    unfold rateWritten
    split
    · exact setReceiver_inv _ hk
    · exact hk
  · exact rejectWrite_inv h

theorem writeNthresh_inv {s : State} (v : Byte) (h : s.Inv) : (writeNthresh v s).Inv := by
  unfold writeNthresh
  split
  · rename_i t ht
    refine setNotes_inv h ?_
    unfold nthresh? at ht
    split at ht
    · rename_i hv
      injection ht with ht
      subst ht
      exact ⟨h.queue.1, h.queue.2.1, hv.1, hv.2⟩
    · cases ht
  · exact rejectWrite_inv h

theorem writeFdefault_inv {s : State} (v : Byte) (h : s.Inv) : (writeFdefault v s).Inv := by
  unfold writeFdefault
  split
  · exact setNotes_inv h h.queue
  · exact rejectWrite_inv h

theorem writeFilter_inv {s : State} (f : FilterField) (v : Byte) (h : s.Inv) : (writeFilter f v s).Inv := by
  unfold writeFilter
  split
  · exact setNotes_inv h h.queue
  · exact rejectWrite_inv h

theorem writeLinkstat_inv {s : State} (v : Byte) (h : s.Inv) : (writeLinkstat v s).Inv :=
  ⟨h.stations, h.disablePending, h.link, h.burst, h.engine, h.service, h.law, h.queue, h.config, h.lists, h.clocks⟩

theorem writeIstat_inv {s : State} (v : Byte) (h : s.Inv) : (writeIstat v s).Inv := by
  refine ⟨h.stations, h.disablePending, h.link, h.burst, h.engine, h.service, h.law, ?_, h.config, h.lists, h.clocks⟩
  have := h.queue
  unfold State.queueOk writeIstat at *
  simp only [setLink_notes, setNotes_notes]
  refine ⟨this.1, ?_, this.2.2⟩
  cases v.getLsbD 2
  · simpa using this.2.1
  · simp

/-! ### Link commands -/

/-- What a change of the link state alone keeps. -/
theorem setLink_inv {s : State} {l : LinkUnit} (h : s.Inv) (hc : l.config = s.link.config) (h1 : l.state ≠ .stopped)
    (h2 : s.link.state ≠ .stopped) (h3 : l.state ≠ .starting) (hk : (s.setLink l).linkOk) : (s.setLink l).Inv := by
  refine ⟨h.stations, h.disablePending, hk, ?_, ?_, h.service, ⟨h.law.1, fun x => absurd x h1⟩, h.queue, ?_, h.lists, h.clocks⟩
  · intro _; rw [setLink_link, hc]; exact h.burst h2
  · have hq := h.engine
    unfold State.engineOk at *
    simp only [setLink_engine]
    split
    · trivial
    · rename_i e he
      rw [he] at hq
      dsimp only at hq
      refine ⟨hq.1, ?_⟩
      have hq2 := hq.2
      split at hq2 <;> first | exact hq2 | exact h3 | exact ⟨hq2.1, h3⟩
  · intro r; rw [setLink_link, hc]; exact h.config r

theorem holdLink_inv {s : State} (h : s.Inv) : (holdLink s).1.Inv := by
  have hl := h.link
  unfold State.linkOk at hl
  unfold holdLink
  split
  · rename_i hs
    rw [hs] at hl
    split
    · rename_i he
      exact setLink_inv h rfl (by simp) (by rw [hs]; simp) (by simp) ⟨he, hl.1, hl.2.1, hl.2.2⟩
    · rename_i he
      show (s.setLink { s.link with state := .held, link := true }).Inv
      exact setLink_inv h rfl (by simp) (by rw [hs]; simp) (by simp)
        ⟨by simpa using he, hl.1, hl.2.1, hl.2.2⟩
  all_goals exact h

theorem resumeLink_inv {s : State} (h : s.Inv) : (resumeLink s).1.Inv := by
  have hl := h.link
  unfold State.linkOk at hl
  unfold resumeLink
  split
  · rename_i hs
    rw [hs] at hl
    exact startRoundIfDue_inv (setLink_inv h rfl (by simp) (by rw [hs]; simp) (by simp) ⟨hl.2.1, hl.2.2.1, hl.2.2.2⟩)
  · rename_i hs
    rw [hs] at hl
    exact startRoundIfDue_inv (setLink_inv h rfl (by simp) (by rw [hs]; simp) (by simp) ⟨hl.2.1, hl.2.2.1, hl.2.2.2⟩)
  all_goals exact h

theorem stopping_inv {s : State} (h : s.Inv) (he : s.engine.isSome = true) (hs : s.link.state ≠ .stopped) (hle : s.link.lineErrors < 8) :
    (stopInterval (s.setLinkState .stopping)).Inv := by
  refine ⟨h.stations, h.disablePending, ⟨he, rfl, hle⟩, fun _ => h.burst hs, ?_, h.service, ⟨h.law.1, fun x => by cases x⟩,
    h.queue, h.config, h.lists, h.clocks⟩
  have hq := h.engine
  unfold State.engineOk at *
  have e1 : (stopInterval (s.setLinkState .stopping)).engine = s.engine := rfl
  rw [e1]
  split
  · trivial
  · rename_i e he
    rw [he] at hq
    dsimp only at hq
    refine ⟨hq.1, ?_⟩
    have hq2 := hq.2
    have e2 : (stopInterval (s.setLinkState .stopping)).link.state ≠ .starting := by simp [stopInterval]
    split at hq2 <;> first | exact hq2 | exact e2 | exact ⟨hq2.1, e2⟩

theorem State.Inv.tablesOk {s : State} (h : s.Inv) (he : s.engine = none) : s.tablesOk := by
  refine ⟨h.stations, fun m => ?_, h.service.1, fun i hi => ?_, h.law, h.queue, h.config, h.burst, h.clocks, he⟩
  · by_contra hx
    have := h.disablePending m (by simpa using hx)
    unfold State.inFlightWith at this
    rw [he] at this
    cases this
  · have := (h.service.2 i).mp hi
    unfold State.requestInFlight at this
    rw [he] at this
    exact this

theorem enterStopped_inv {s : State} (t : Stamp) (h : s.Inv) (he : s.engine = none) (hle : s.link.lineErrors ≤ 8) :
    (enterStopped t s).Inv := by
  obtain ⟨h1, h2, h3, h4, h5, h6, h7, h8, h9, h10⟩ := enterStopped_tablesOk t (h.tablesOk he)
  refine ⟨h1, fun n hn => ?_, ⟨he, rfl, rfl, rfl, rfl, rfl, hle⟩, h8, ?_, ⟨h3, fun i => ?_⟩, h5, h6, h7, ?_, h9⟩
  · rw [h2 n] at hn; cases hn
  · unfold State.engineOk; rw [h10]; trivial
  · unfold State.requestInFlight
    rw [h10]
    exact ⟨fun x => (h4 i x).elim, fun x => x.elim⟩
  · exact ⟨List.Pairwise.nil, fun _ hi => (by cases hi), List.Pairwise.nil, fun _ hi => (by cases hi)⟩

theorem stopLink_inv {s : State} (h : s.Inv) : (stopLink s).1.Inv := by
  have hl := h.link
  unfold State.linkOk at hl
  unfold stopLink
  split <;> rename_i hs <;> rw [hs] at hl
  · split
    · rename_i he; exact stopping_inv h he (by rw [hs]; simp) hl.2.2.2
    · rename_i he; exact enterStopped_inv _ h (by simpa using he) (by omega)
  · split
    · rename_i he; exact stopping_inv h he (by rw [hs]; simp) hl.2.2
    · rename_i he; exact enterStopped_inv _ h (by simpa using he) (by omega)
  · exact stopping_inv h hl.1 (by rw [hs]; simp) hl.2.2.2
  · exact enterStopped_inv _ h hl.1 (by omega)
  · exact enterStopped_inv _ h hl.1 hl.2.2.2.2.2.2
  · exact h
  · exact h

theorem completeDiscovery_eq_afterRemoval {s : State} (hs : s.link.state = .starting) :
    completeDiscovery s = afterRemoval s := by
  unfold afterRemoval startRoundIfDue completeDiscovery
  split
  · rw [enterRunning_eq, startRound_not_due]; simp
  · rw [hs]; simp

theorem Station.restart_state (st : Station) :
    (st.restart.state = .absent ↔ st.state ≠ .unused) ∧ st.restart.disablePending = st.disablePending := by
  unfold Station.restart
  split
  · rename_i h; rw [h]; simp
  · rename_i h; simp [h, Station.clearAttention]

theorem startInterval_frame (s : State) :
    startInterval s = { s with time := { s.time with interval := (startInterval s).time.interval } } := by
  unfold startInterval
  split <;> rfl

/-- R154: what START leaves before discovery can be complete. -/
theorem startLink_begun_inv {s u : State} (h : s.Inv) (hs : s.link.state = .stopped) (u1 : u.engine = none)
    (u2 : u.slots = s.slots) (u3 : u.service = s.service) (u4 : u.notes = s.notes) (u5 : u.link.config = s.link.config)
    (u6 : u.link.lineErrors = 0) (u7 : u.sched.roundList = []) (u8 : u.sched.roundTimer = .stopped)
    (u9 : u.sched.burstCounter = 0) (u10 : u.time.counter = s.time.counter) (u11 : u.clock = s.clock)
    (est : ∀ m, u.station m = (s.station m).restart) :
    (completeDiscovery ((u.setSched
      { u.sched with discovery := allStations.filter (fun n => (u.station n).state = .absent) }).setLinkState
        .starting)).Inv := by
  have he : s.engine = none := by
    have hl := h.link
    unfold State.linkOk at hl
    rw [hs] at hl
    exact hl.1
  obtain ⟨h1, h2, h3, h4, h5, h6, h7, h8, h9, h10⟩ := h.tablesOk he
  have hns := h.law.2 hs
  have usl : ∀ i, u.slot i = s.slot i := by intro i; unfold State.slot; rw [u2]
  rw [completeDiscovery_eq_afterRemoval rfl]
  apply afterRemoval_inv_of_tables
  · refine ⟨fun m => ?_, fun m => ?_, ?_, fun i => ?_, ⟨fun i hi => ?_, fun _ i => ?_⟩, queueOk_of_notes h6 u4, fun r => ?_,
      fun _ => ?_, ?_, u1⟩
    · show (u.station m).ok
      rw [est]; exact Station.restart_ok (h1 m)
    · show (u.station m).disablePending = false
      rw [est, (Station.restart_state _).2]; exact h2 m
    · show u.serviceListOk
      unfold State.serviceListOk at *
      simp only [usl, u3]; exact h3
    · show (u.slot i).state ≠ .active
      rw [usl]; exact h4 i
    · have : (u.slot i).inService = true := hi
      rw [usl, hns i] at this; cases this
    · show (u.slot i).inService = false
      rw [usl]; exact hns i
    · show configInRange r (u.link.config.get r) = true
      rw [u5]; exact h7 r
    · show u.sched.burstCounter ≤ _
      rw [u9]; exact Nat.zero_le _
    · show u.time.counter = BitVec.ofNat 32 u.clock
      rw [u10, u11]; exact h9
  · refine ⟨?_, fun i hi => ?_, ?_, fun n hn => ?_⟩
    · show (u.sched.roundList.map _).Pairwise _
      rw [u7]; exact List.Pairwise.nil
    · have : i ∈ u.sched.roundList := hi
      rw [u7] at this; cases this
    · exact allStations_pairwise.sublist List.filter_sublist
    · have : n ∈ allStations.filter (fun n => (u.station n).state = .absent) := hn
      have := (List.mem_filter.mp this).2
      show (u.station n).state = .absent
      simpa using this
  · exact Or.inr ⟨rfl, u7, u8, by show u.link.lineErrors < 8; rw [u6]; omega⟩

theorem startLink_inv {s : State} (h : s.Inv) : (startLink s).1.Inv := by
  unfold startLink
  split
  · rename_i hs
    have hl := h.link
    unfold State.linkOk at hl
    rw [hs] at hl
    obtain ⟨he, hp, hi, hr, hd, ht, hle⟩ := hl
    dsimp only
    apply startLink_begun_inv h hs
    · rw [startInterval_frame]; simpa using he
    · rw [startInterval_frame]; simp
    · rw [startInterval_frame]; simp
    · rw [startInterval_frame]; simp
    · rw [startInterval_frame]; simp
    · rw [startInterval_frame]; simp
    · rw [startInterval_frame]; simpa using hr
    · rw [startInterval_frame]; simpa using ht
    · rw [startInterval_frame]; simp
    · rw [startInterval_frame]; simp
    · rw [startInterval_frame]; simp
    · intro m
      rw [startInterval_frame]
      simp [State.station]
  all_goals exact h

/-! ### Commands -/

theorem commandEffect_inv {s : State} (k : CommandCode) (h : s.Inv) : (commandEffect k s).1.Inv := by
  unfold commandEffect withStation withSlot
  cases k <;> dsimp only
  · exact startLink_inv h
  · exact stopLink_inv h
  · exact holdLink_inv h
  · exact resumeLink_inv h
  · split
    · exact enableStation_inv _ h
    · exact h
  · split
    · exact disableStation_inv _ h
    · exact h
  · split
    · exact clearStationAttn_inv _ h
    · exact h
  · split
    · exact queueSlot_inv _ h
    · exact h
  · split
    · exact withdrawSlot_inv _ h
    · exact h
  · split
    · exact releaseSlot_inv _ h
    · exact h
  · exact popQueue_inv h

theorem writeCmd_inv {s : State} (v : Byte) (h : s.Inv) : (writeCmd v s).Inv := by
  rcases writeCmd_cases v s with ⟨k, _, e⟩ | ⟨_, e⟩ <;> rw [e]
  · exact setHost_inv _ (commandEffect_inv k h)
  · exact setHost_inv _ h

theorem writeIenab_inv {s : State} (v : Byte) (h : s.Inv) : (writeIenab v s).Inv := by
  unfold writeIenab
  split
  · exact setHost_inv _ h
  · exact rejectWrite_inv h

theorem writeSlotsel_inv {s : State} (v : Byte) (h : s.Inv) : (writeSlotsel v s).Inv := by
  unfold writeSlotsel
  split
  · exact setHost_inv _ h
  · exact rejectWrite_inv h

theorem writeSlptr_inv {s : State} (v : Byte) (h : s.Inv) : (writeSlptr v s).Inv := by
  unfold writeSlptr
  split
  · exact setHost_inv _ h
  · exact rejectWrite_inv h

theorem writeStasel_inv {s : State} (v : Byte) (h : s.Inv) : (writeStasel v s).Inv := by
  unfold writeStasel
  split
  · exact setHost_inv _ h
  · exact rejectWrite_inv h

theorem writeFsel_inv {s : State} (v : Byte) (h : s.Inv) : (writeFsel v s).Inv := by
  unfold writeFsel
  split
  · exact setHost_inv _ h
  · exact rejectWrite_inv h

theorem ite_inv {p : Prop} [Decidable p] {a b : State} (ha : a.Inv) (hb : b.Inv) : (if p then a else b).Inv := by
  split
  · exact ha
  · exact hb

theorem writeRegister_inv {s : State} (a : BitVec 6) (v : Byte) (h : s.Inv) : (writeRegister a v s).Inv := by
  unfold writeRegister
  dsimp only
  split
  · exact writeConfig_inv _ _ h
  · exact writeSlotField_inv _ _ h
  · exact writeFilter_inv _ _ h
  · exact ite_inv (writeCmd_inv v h) (ite_inv (setHost_inv _ h) (ite_inv (writeLinkstat_inv v h)
      (ite_inv (writeIstat_inv v h) (ite_inv (writeIenab_inv v h) (ite_inv (writeNthresh_inv v h)
      (ite_inv (writeFdefault_inv v h) (ite_inv (writeSlotsel_inv v h) (ite_inv (writeSlptr_inv v h)
      (ite_inv (writeSlreq_inv v h) (ite_inv (writeStasel_inv v h) (ite_inv (writeStcfg_inv v h)
      (ite_inv (writeFsel_inv v h) (rejectWrite_inv h)))))))))))))

end Sys2Proof.Machine
end

