-- ==== Sys2Proof/Laws/ReportKeeps.lean ====
section
/-! SUPPORT. What a report keeps in every state: the queue's order, the finished slots and the bounds of the health
counters. -/

namespace Sys2Proof.Machine

/-! ### The exchange in flight -/

theorem takeReport_engine (r : Report) (s : State) : (takeReport r s).engine = none := by
  rw [takeReport_eq]
  simp

/-! ### The queue of notifications -/

theorem stationStep_queue (r : Report) (s : State) : ∃ l, (stationStep r s).1.notes.queue = s.notes.queue ++ l := by
  cases hn : r.job.station? with
  | none => rw [stationStep_no_target hn]; exact ⟨[], by simp⟩
  | some n =>
    rw [stationStep_notes hn]
    split
    · exact ⟨[], by simp⟩
    · exact offer_queue _ _

theorem attentionStep_queue (r : Report) (s : State) : ∃ l, (attentionStep r s).notes.queue = s.notes.queue ++ l := by
  unfold attentionStep takeAttention
  dsimp only
  repeat' split
  all_goals first | exact offer_queue _ _ | exact ⟨[], (List.append_nil _).symm⟩

/-- R134: a report puts its notifications behind those in the queue. -/
theorem takeReport_queue (r : Report) (s : State) : ∃ l, (takeReport r s).notes.queue = s.notes.queue ++ l := by
  obtain ⟨l1, h1⟩ := stationStep_queue r (s.setEngine none)
  obtain ⟨l2, h2⟩ := attentionStep_queue r (stationStep r (s.setEngine none)).1
  refine ⟨l1 ++ l2, ?_⟩
  rw [takeReport_eq]
  simp [h2, h1]

theorem takeReport_queue_length (r : Report) (s : State) (h : s.notes.queue.length ≤ 16) :
    (takeReport r s).notes.queue.length ≤ 16 := by
  have h1 : (stationStep r (s.setEngine none)).1.notes.queue.length ≤ 16 := by
    cases hn : r.job.station? with
    | none => rw [stationStep_no_target hn]; exact h
    | some n =>
      rw [stationStep_notes hn]
      split
      · exact h
      · exact offer_queue_length _ _ h
  have h2 : (attentionStep r (stationStep r (s.setEngine none)).1).notes.queue.length ≤ 16 := by
    unfold attentionStep takeAttention
    dsimp only
    repeat' split
    all_goals first | exact h1 | exact offer_queue_length _ _ h1
  rw [takeReport_eq]
  simpa using h2

/-! ### The health counters -/

/-- R46: a report keeps the bounds of a station's counters, whatever its other fields. -/
theorem Station.report_countersBounded {st : Station} (r : Report) (h : st.countersBounded) : (st.report r).1.countersBounded := by
  have hth : ∀ (x : Station) (u : Bool), x.served = true → x.missCount ≤ 3 → (x.state = .online → x.faultCounter ≤ 27) →
     (x.state = .degraded → 15 ≤ x.faultCounter ∧ x.faultCounter ≤ 51 ∧ (u = false → x.faultCounter ≤ 47)) → (x.thresholds u).1.countersBounded := by
    intro x u a b c d
    have h0 := (thresholds_ok (st := { x with latch := false, attnCode := 0, ackPending := false }) (unsound := u) a b c d (by simp [Station.attentionOk])).1
    have e : ∀ y : Station, y.state = x.state → y.faultCounter = x.faultCounter → y.missCount = x.missCount →
       (y.thresholds u).1.state = (x.thresholds u).1.state ∧ (y.thresholds u).1.faultCounter = (x.thresholds u).1.faultCounter ∧ (y.thresholds u).1.missCount = (x.thresholds u).1.missCount := by
      intro y e1 e2 e3
      unfold Station.thresholds Station.isolate Station.clearAttention
      rw [e1, e2]
      cases x.state <;> dsimp only <;> repeat' split
      all_goals exact ⟨by first | rfl | assumption, by first | rfl | assumption, by first | rfl | assumption⟩
    obtain ⟨e1, e2, e3⟩ := e { x with latch := false, attnCode := 0, ackPending := false } rfl rfl rfl
    unfold Station.countersBounded at *
    rw [e1, e2, e3] at h0
    exact h0
  unfold Station.report
  split
  · exact h
  · unfold Station.absentReport
    split
    · simp [Station.find, Station.countersBounded]
    · exact h
  · rename_i hs
    have h' := h
    unfold Station.countersBounded at h'
    rw [hs] at h'
    unfold Station.isolatedReport lostAt
    split
    · simp [Station.restore, Station.countersBounded, restoredCounter]
    · split
      · simp [Station.lose, Station.clearAttention, Station.countersBounded]
      · simp only [Station.missed, Station.countersBounded, hs]; dsimp only at h'; omega
    · simp only [Station.answeredBadly, Station.countersBounded, hs]; dsimp only at h'; omega
    · exact h
  all_goals
    rename_i hs
    have h' := h
    unfold Station.countersBounded at h'
    rw [hs] at h'
    dsimp only at h'
    unfold Station.servedReport lostAt
    have hr : ∀ (j : Job) (o : ExchangeOutcome) (p : Option Reply),
         (st.sound.recorded j o p).state = st.state ∧ (st.sound.recorded j o p).faultCounter = st.faultCounter - 1 ∧ (st.sound.recorded j o p).missCount = 0 := by
        intro j o p
        unfold Station.recorded Station.sound Station.probed
        split <;> exact ⟨rfl, rfl, rfl⟩
    have hsd : ∀ j o p, ((st.sound.recorded j o p).thresholds false).1.countersBounded := by
      intro j o p
      obtain ⟨a, b, c⟩ := hr j o p
      apply hth
      · simp [Station.served, a, hs]
      · omega
      · intro x; rw [a, hs] at x; first | (cases x; done) | omega
      · intro x; rw [a, hs] at x; first | (cases x; done) | omega
    split
    · exact hsd _ _ _
    · exact hsd _ _ _
    · exact hsd _ _ _
    · split
      · simp [Station.lose, Station.clearAttention, Station.countersBounded]
      · apply hth
        · simp [Station.served, Station.raised, Station.missed, hs]
        · simp only [Station.raised, Station.missed]; omega
        · intro x; simp only [Station.raised, Station.missed, unsoundStep, hs] at *; first | (cases x; done) | omega
        · intro x; simp only [Station.raised, Station.missed, unsoundStep, hs] at *; first | (cases x; done) | exact ⟨by omega, by omega, fun x => by cases x⟩
    · apply hth
      · simp [Station.served, Station.raised, Station.answeredBadly, hs]
      · simp only [Station.raised, Station.answeredBadly]; omega
      · intro x; simp only [Station.raised, Station.answeredBadly, unsoundStep, hs] at *; first | (cases x; done) | omega
      · intro x; simp only [Station.raised, Station.answeredBadly, unsoundStep, hs] at *; first | (cases x; done) | exact ⟨by omega, by omega, fun x => by cases x⟩
    · exact h
    · exact h

/-- R46: a report keeps the bounds of every station's counters. -/
theorem takeReport_countersBounded (r : Report) {s : State} (h : ∀ n, (s.station n).countersBounded) :
    ∀ n, ((takeReport r s).station n).countersBounded := by
  have h1 : ∀ n, ((stationStep r (s.setEngine none)).1.station n).countersBounded := by
    intro m
    cases hn : r.job.station? with
    | none => rw [stationStep_no_target hn]; exact h m
    | some n => rw [stationStep_station hn]; split
                · exact Station.report_countersBounded _ (h n)
                · exact h m
  have h2 : ∀ n, ((attentionStep r (stationStep r (s.setEngine none)).1).station n).countersBounded := by
    intro m; obtain ⟨l, c, a, e⟩ := attentionStep_entry r (stationStep r (s.setEngine none)).1 m
    rw [e]; exact h1 m
  have h3 : ∀ n, ((afterSlots r s).station n).countersBounded := by
    intro m
    rcases slotStep_station r (stationStep r (s.setEngine none)).2 (attentionStep r (stationStep r (s.setEngine none)).1) m with e | ⟨_, e⟩
    · unfold afterSlots; rw [e]; exact h2 m
    · unfold afterSlots; rw [e]; exact h2 m
  have h4 : ∀ n, ((afterDisable r s).station n).countersBounded := by
    unfold afterDisable
    rcases disableStep_cases r (afterSlots r s) with e | ⟨n, _, _, e⟩ <;> rw [e]
    · exact h3
    · intro m; rw [applyDisable_station]; split
      · exact (Station.disable_ok _).1
      · exact h3 m
  intro m
  have : (takeReport r s).station m = (afterDisable r s).station m := by
    show (afterRemoval (leaveList r.job (timeStep r (linkStep r (afterDisable r s))))).station m = _
    rw [afterRemoval_station, leaveList_station, timeStep_frame, linkStep_frame]; rfl
  rw [this]; exact h4 m

/-! ### Finished slots -/

theorem failSlots_frozen (p : Slot → Bool) (o : SlotOutcome) (t : Stamp) (s : State) (i : SlotId) 
    (h : (s.slot i).state = .done ∨ (s.slot i).state = .failed) :
    (failSlots p o t s).slot i = s.slot i := by
  rcases failSlots_state p o t s i with ⟨e, _⟩ | ⟨⟨_, e⟩, _⟩
  · exact e
  · unfold Slot.waitingForService at e; rcases h with h | h <;> rw [h] at e <;> simp at e

theorem applyDisable_frozen (n : StationId) (t : Stamp) (s : State) (i : SlotId) 
    (h : (s.slot i).state = .done ∨ (s.slot i).state = .failed) :
    (applyDisable n t s).slot i = s.slot i :=
  failSlots_frozen (fun sl => sl.isFor n) .stationDisabled t
      (((s.setStation n (s.station n).disable).removeRoundItem n).removeDiscoveryEntry n) i h

theorem enterStopped_frozen (t : Stamp) (s : State) (i : SlotId) 
    (h : (s.slot i).state = .done ∨ (s.slot i).state = .failed) :
    (enterStopped t s).slot i = s.slot i :=
  failSlots_frozen (fun _ => true) .stopped t ((s.setLinkState .stopped).setLinkFlag) i h

theorem takeReport_frozen (r : Report) (s : State) (ha : ∀ i k n g, r.job = .request i k n g → (s.slot i).state = .active)
   (i : SlotId)
    (h : (s.slot i).state = .done ∨ (s.slot i).state = .failed) : (takeReport r s).slot i = s.slot i := by
  have h3 : (afterSlots r s).slot i = s.slot i := by
    unfold afterSlots slotStep
    have e0 : (attentionStep r (stationStep r (s.setEngine none)).1).slot i = s.slot i := by simp
    have hm : ∀ n t x, ((x : State).slot i = s.slot i) → (massFailure n t r.endTime x).slot i = s.slot i := by
      intro n t x hx
      rcases t with _ | t
      · exact hx
      · cases t
        all_goals first | exact hx | (refine (failSlots_frozen _ _ _ _ _ ?_).trans hx; rw [hx]; exact h)
    cases hj : r.job <;> simp only [Job.station?]
    · exact hm _ _ _ e0
    · exact hm _ _ _ e0
    · apply hm
      rw [applyToSlot_slot]
      split
      · rename_i e; subst e
        have := ha _ _ _ _ hj
        rw [this] at h; simp at h
      · exact e0
    · exact hm _ _ _ e0
    · exact e0
  have h4 : (afterDisable r s).slot i = s.slot i := by
    unfold afterDisable
    rcases disableStep_cases r (afterSlots r s) with e | ⟨n, _, _, e⟩ <;> rw [e]
    · exact h3
    · refine (applyDisable_frozen _ _ _ _ ?_).trans h3
      rw [← h3] at h; exact h
  show (afterRemoval (leaveList r.job (timeStep r (linkStep r (afterDisable r s))))).slot i = _
  rw [afterRemoval_slot, leaveList_slot, timeStep_frame]
  show (linkStep r (afterDisable r s)).slot i = _
  rcases linkStep_cases r (afterDisable r s) with ⟨_, _, e⟩ | ⟨_, _, e⟩ | ⟨_, _, e⟩ | ⟨_, e⟩ | ⟨_, e⟩ <;> rw [e]
  · exact h4
  · exact h4
  · exact h4
  · refine (enterStopped_frozen _ _ _ ?_).trans h4
    rw [← h4] at h; exact h
  · exact h4

end Sys2Proof.Machine
end

