-- ==== Sys2Proof/Tests/Slice0.lean ====
section
/-! SUPPORT. Tests: the checks of WellFormed, the manual's own numbers, and for every obligation with hypotheses a
state and operands that meet them, with what the command then does there. -/

namespace Sys2Proof.Tests
open Sys2Proof.Machine

/-- The next state of a command; the tests read its fields. -/
def after (c : Instr) (s : State) : State :=
  match exec c s with
  | .next t => t
  | .fault _ => s
  | .refused _ => s

/-! ### WellFormed refuses an ill-formed term for each check -/

theorem test_wellFormed_refuses_a_known_code :
    (Instr.unknownCommandCode 0x10).wellFormed = false ∧ (Instr.unknownCommandCode 0x05).wellFormed = true := by decide
theorem test_wellFormed_refuses_clears_without_their_bit :
    (Instr.clearRlate 0xBF).wellFormed = false ∧ (Instr.clearWrej 0x7F).wellFormed = false ∧
    (Instr.clearOvr 0xFB).wellFormed = false ∧ (Instr.clearLink 0xF7).wellFormed = false := by decide
theorem test_wellFormed_accepts_clears_with_their_bit :
    (Instr.clearRlate 0x40).wellFormed = true ∧ (Instr.clearWrej 0x80).wellFormed = true ∧
    (Instr.clearOvr 0x04).wellFormed = true ∧ (Instr.clearLink 0x08).wellFormed = true := by decide
theorem test_wellFormed_refuses_another_rows_address :
    (Instr.registerWrite 0x00 0).wellFormed = false ∧ (Instr.registerWrite 0x12 0).wellFormed = false ∧
    (Instr.registerWrite 0x26 0).wellFormed = false ∧ (Instr.registerWrite 0x3F 0).wellFormed = false ∧
    (Instr.registerWrite 0x01 0).wellFormed = true ∧ (Instr.registerWrite 0x39 0).wellFormed = true := by decide

/-! ### Numbers of the manual -/

/-- "A check worked through" (section 1.2). -/
theorem test_check_worked_through :
    crc16 [0x19] = 0x62E8 ∧ crc16 [0x19, 0] = 0xA4E4 ∧ crc16 [0x19, 0, 0] = 0x116E ∧
    crc16 [0x19, 0, 0, 0x11, 0x6E] = 0 ∧
    State.reset.buildFrame (.poll 2) = [0xC5, 0x19, 0x00, 0x00, 0x11, 0x6E] := by decide +kernel

/-- R3: bit time and byte time at each RATE. -/
theorem test_bit_and_byte_times :
    [0, 1, 2, 3].map (fun r => ({ TimingConfig.reset with rate := r }).bitTime) = [16, 8, 4, 2] ∧
    [0, 1, 2, 3].map (fun r => ({ TimingConfig.reset with rate := r }).byteTime) = [160, 80, 40, 20] := by decide

/-- R2: the lead byte on the line: start bit, then bits 0 to 7, then the stop bit. -/
theorem test_lead_byte_on_the_line :
    (List.range 10).map (lineLevel 0xC5) =
      [false, true, false, true, false, false, false, true, true, true] := by decide

/-! ### States that the witnesses stand on -/

/-- Station `n` in a state, the rest of its entry as after reset. -/
def withStation (n : StationId) (st : StationState) (s : State) : State :=
  s.setStation n { s.station n with state := st }

/-- The link in a state. -/
def inLink (l : LinkState) (s : State) : State := s.setLinkState l

/-- Slot `i` in a state, for station number 3 (entry 2). -/
def withSlot (i : SlotId) (x : SlotState) (s : State) : State :=
  s.setSlot i { s.slot i with state := x, station := 3 }

/-- CMDARG. -/
def arg (v : Byte) (s : State) : State := s.setHost { s.host with cmdarg := v }

/-- A poll of entry 2 in a phase, begun at instant 0. -/
def pollInFlight (p : Phase) (s : State) : State :=
  s.setEngine (some { job := .poll 2, frame := s.buildFrame (.poll 2), startedAt := 0, phase := p })

/-- The model's clock. -/
def atClock (t : Nat) (s : State) : State := { s with clock := t }

/-- A byte being assembled since instant `t`, at RATE 1. -/
def hearing (t : Nat) (s : State) : State :=
  s.setReceiver { s.receiver with assembling := some { start := t, bitTime := 8 }, idleSince := none }

/-- Entry 2 ONLINE and the link RUNNING, in round 1, with nothing in its list. -/
def running : State :=
  (inLink .running (withStation 2 .online .reset)).setSched { Scheduler.reset with roundTimer := .running 20000 }

/-! ### Inputs and time -/

theorem test_idle_and_front_command :
    State.reset.pending = [] ∧ (after .pop State.reset).host.cmdres = .empty := by decide

theorem test_reset_low_holds_commands_off :
    (after .deviceReset .reset).inReset = true ∧ Instr.isInput .start = false ∧
    (after .start (after .deviceReset .reset)).link.state = .stopped ∧
    (after (.resetReleased true) (after .deviceReset .reset)).inReset = false ∧
    (after (.resetReleased false) (after .deviceReset .reset)).receiver.heldLow = true := by decide

theorem test_clock_stopped_holds_the_tick :
    Instr.isLinkEvent .timeCounterTick = true ∧ (after .clkStop .reset).clkRunning = false ∧
    (after .timeCounterTick (after .clkStop .reset)).time.counter = 0 ∧
    (after .timeCounterTick (after .clkRestart (after .clkStop .reset))).time.counter = 1 := by decide

/-! ### Link commands -/

theorem test_start_with_no_station :
    State.reset.link.state = .stopped ∧ (after .start .reset).link.state = .running ∧
    (after .start .reset).link.link = true ∧ (after .start .reset).sched.roundCounter = 1 := by decide

theorem test_start_with_a_station :
    (after .start (withStation 2 .absent .reset)).link.state = .starting ∧
    (after .start (withStation 2 .absent .reset)).sched.discovery = [2] := by decide

theorem test_hold_and_resume :
    running.engine = none ∧ (after .hold running).link.state = .held ∧
    (after .hold (pollInFlight (.transmitting 0) running)).link.state = .holding ∧
    (after .resume (inLink .held running)).link.state = .running ∧
    (after .resume (inLink .holding (pollInFlight (.transmitting 0) running))).link.state = .running ∧
    running.sched.roundDue = false := by decide

theorem test_resume_starts_the_round_that_is_due :
    ((inLink .held running).setSched { running.sched with roundTimer := .expired }).sched.roundDue = true ∧
    (after .resume ((inLink .held running).setSched { running.sched with roundTimer := .expired })).sched.roundList =
      [⟨2, .poll⟩] := by decide

theorem test_stop_from_each_state :
    (after .stop running).link.state = .stopped ∧ (after .stop (inLink .starting running)).link.state = .stopped ∧
    (after .stop (inLink .held running)).link.state = .stopped ∧
    (after .stop (inLink .faulted running)).link.state = .stopped ∧
    (after .stop (pollInFlight (.transmitting 0) running)).link.state = .stopping ∧
    (after .stop (inLink .holding (pollInFlight (.transmitting 0) running))).link.state = .stopping := by decide

theorem test_stop_fails_the_slots_in_service :
    ((after .stop ((withSlot 1 .queued running).setService [1])).slot 1).outcome = .stopped ∧
    (after .stop ((withSlot 1 .queued running).setService [1])).slotdone = 0x02 := by decide

theorem test_link_commands_in_the_wrong_state :
    (after .start running).host.cmdres = .wrongState ∧ (after .hold .reset).host.cmdres = .wrongState ∧
    (after .resume running).host.cmdres = .wrongState ∧ (after .stop .reset).host.cmdres = .wrongState ∧
    (after .stop (inLink .stopping running)).host.cmdres = .wrongState ∧
    Instr.writesCmd .quietCount = false := by decide

/-! ### Station and slot commands -/

theorem test_enable_at_both_ends :
    (arg 1 State.reset).host.cmdarg.toNat = (0 : StationId).val + 1 ∧
    ((after .enable (arg 1 .reset)).station 0).state = .absent ∧
    ((after .enable (arg 31 .reset)).station 30).state = .absent ∧
    (after .enable (arg 3 running)).host.cmdres = .wrongState ∧
    (after .enable (arg 0 .reset)).host.cmdres = .badArg ∧ (after .enable (arg 32 .reset)).host.cmdres = .badArg := by
  decide

theorem test_disable_at_once_and_deferred :
    running.inFlightWith 2 = false ∧ ((after .disable (arg 3 running)).station 2).state = .unused ∧
    (after .disable (arg 4 running)).host.cmdres = .ok ∧
    (pollInFlight (.transmitting 0) running).inFlightWith 2 = true ∧
    ((after .disable (arg 3 (pollInFlight (.transmitting 0) running))).station 2).disablePending = true := by decide

theorem test_clearattn_rows :
    (after .clearattn (arg 1 running)).host.cmdres = .wrongState ∧ (after .clearattn (arg 3 running)).host.cmdres = .ok ∧
    ((after .clearattn (arg 3 (running.setStation 2 { running.station 2 with latch := true }))).station 2).latch =
      false ∧
    ((after .clearattn (arg 3 (running.setStation 2 { running.station 2 with latch := true, mode := .edge }))).station
      2).ackPending = true ∧
    (after .clearattn (arg 0 running)).host.cmdres = .badArg ∧ (after .clearattn (arg 32 running)).host.cmdres = .badArg := by
  decide

/-- R72: the result of each check, and the accepted slot; the lengths stand at the ends of the kinds' ranges. -/
theorem test_queue_checks :
    (after .queue (arg 8 running)).host.cmdres = .badArg ∧ (after .queue (arg 7 running)).host.cmdres = .notLoaded ∧
    (after .queue (arg 1 (inLink .stopped (withSlot 1 .loaded running)))).host.cmdres = .wrongState ∧
    (after .queue (arg 1 (running.setSlot 1 { running.slot 1 with state := .loaded }))).host.cmdres = .badRequest ∧
    (after .queue (arg 1 (running.setSlot 1
      { running.slot 1 with state := .loaded, station := 3, reqLen := 5 }))).host.cmdres = .badRequest ∧
    (after .queue (arg 1 (running.setSlot 1
      { running.slot 1 with state := .loaded, station := 3, kind := .store }))).host.cmdres = .badRequest ∧
    (after .queue (arg 1 (running.setSlot 1
      { running.slot 1 with state := .loaded, station := 4 }))).host.cmdres = .stationDown ∧
    (after .queue (arg 1 (running.setSlot 1
      { running.slot 1 with state := .loaded, station := 3, reqLen := 4 }))).service = [1] ∧
    (after .queue (arg 1 (running.setSlot 1
      { running.slot 1 with state := .loaded, station := 3, kind := .store, reqLen := 32 }))).service = [1] ∧
    (after .queue (arg 1 (running.setSlot 1
      { running.slot 1 with state := .loaded, station := 3, kind := .command, reqLen := 32 }))).service = [1] := by
  decide

theorem test_withdraw_and_release_rows :
    (after .withdraw (arg 8 running)).host.cmdres = .badArg ∧ (after .release (arg 8 running)).host.cmdres = .badArg ∧
    ((after .withdraw (arg 1 (withSlot 1 .queued running))).slot 1).state = .loaded ∧
    (after .withdraw (arg 1 (withSlot 1 .active running))).host.cmdres = .tooLate ∧
    (after .withdraw (arg 1 (withSlot 1 .done running))).host.cmdres = .wrongState ∧
    (withSlot 7 .done running).slotdone = 0x80 ∧
    (after .release (arg 7 (withSlot 7 .done running))).slotdone = 0 ∧
    (after .release (arg 7 (withSlot 7 .waiting running))).host.cmdres = .wrongState := by decide

theorem test_pop_takes_the_head :
    (after .pop (running.setNotes { running.notes with queue := [⟨.found, 2, 0x21, 5⟩] })).notes.queue = [] ∧
    (after .pop running).host.cmdres = .empty := by decide

theorem test_codes_at_the_edges_of_the_table :
    (after (.unknownCommandCode 0x00) .reset).host.cmdres = .badArg ∧
    (after (.unknownCommandCode 0x05) .reset).host.cmdres = .badArg ∧
    (after (.unknownCommandCode 0x31) .reset).host.cmdres = .badArg ∧
    (after (.unknownCommandCode 0x30) .reset).host.cmdres = .empty := by decide

/-! ### The register window -/

theorem test_time_snapshot :
    readRegister 0x16 (after .time0Read (State.reset.setTime { TimeBase.reset with counter := 0x01020304 })) = 0x01 ∧
    (after .time0Read (State.reset.setTime { TimeBase.reset with counter := 0x01020304 })).host.lastRead =
      some 0x04 := by decide

/-- "A read of address 0x21 then returns 0x15 ... Address 0x2A returns 0x02" (section 10.5), and other windows. -/
theorem test_window_reads :
    readRegister 0x21 ((State.reset.setSlot 2 { State.reset.slot 2 with
      state := .done, outcome := .ok, replyKind := .ack }).setHost { HostUnit.reset with slotsel := 2 }) = 0x15 ∧
    readRegister 0x2A ((State.reset.setSlot 2 { State.reset.slot 2 with
      state := .done, outcome := .ok, replyKind := .ack }).setHost { HostUnit.reset with slotsel := 2 }) = 0x02 ∧
    readRegister 0x34 (State.reset.setStation 0 { Station.reset with faultCounter := 51, missCount := 3 }) = 0xF3 ∧
    readRegister 0x35 (State.reset.setStation 0 { Station.reset with latch := true, resync := true }) = 0x05 ∧
    readRegister 0x18 (State.reset.setNotes
      { State.reset.notes with queue := [⟨.restored, 30, 0x21, 0x01020304⟩] }) = 7 ∧
    readRegister 0x19 (State.reset.setNotes
      { State.reset.notes with queue := [⟨.restored, 30, 0x21, 0x01020304⟩] }) = 31 ∧
    readRegister 0x1E (State.reset.setNotes
      { State.reset.notes with queue := [⟨.restored, 30, 0x21, 0x01020304⟩] }) = 1 := by decide

/-- The strobes at rest, in a read and in a write; `false` is low. -/
def idleBus : Strobes := { cs := true, rd := true, wr := true }
def readStrobes : Strobes := { cs := false, rd := false, wr := true }
def writeStrobes : Strobes := { cs := false, rd := true, wr := false }

/-- R168: a read drives D0-D7 until /RD goes high, a write is taken when /WR goes high, both strobes take nothing. -/
theorem test_bus_accesses :
    (busEvent idleBus readStrobes 0x31 0 .reset).dataPins readStrobes = some 1 ∧
    (busEvent idleBus readStrobes 0x31 0 .reset).dataPins idleBus = none ∧
    (busEvent readStrobes idleBus 0x31 0 (busEvent idleBus readStrobes 0x31 0 .reset)).host.lastRead = none ∧
    (busEvent idleBus readStrobes 0x28 0 .reset).host.slptr = 1 ∧
    (busEvent idleBus writeStrobes 0x01 5 .reset).host.cmdarg = 0 ∧
    (busEvent writeStrobes { writeStrobes with wr := true } 0x01 5 .reset).host.cmdarg = 5 ∧
    (busEvent idleBus { readStrobes with wr := false } 0x31 0 .reset).dataPins { readStrobes with wr := false } = none ∧
    (busEvent idleBus readStrobes 0x31 0 { State.reset with inReset := true }).dataPins readStrobes = none := by decide

/-- Logs 18, 5: a write that ends as a read begins is taken and the read is not; a read cut short drives no more; a write with /RD low within it is taken. -/
theorem test_strobes_that_meet :
    (busEvent writeStrobes readStrobes 0x01 5 .reset).host.cmdarg = 5 ∧
    (busEvent writeStrobes readStrobes 0x01 5 .reset).dataPins readStrobes = none ∧
    (busEvent { readStrobes with wr := false } readStrobes 0x31 0
      (busEvent readStrobes { readStrobes with wr := false } 0x31 0
        (busEvent idleBus readStrobes 0x31 0 .reset))).dataPins readStrobes = none ∧
    (busEvent writeStrobes { writeStrobes with wr := true } 0x01 5
      (busEvent { writeStrobes with rd := false } writeStrobes 0x01 5
        (busEvent writeStrobes { writeStrobes with rd := false } 0x01 5 .reset))).host.cmdarg = 5 := by decide

theorem test_data_ports :
    (after .slrplyRead (State.reset.setHost { HostUnit.reset with slptr := 31 })).host.slptr = 0 ∧
    ((after (.slreqWrite 0xAB) .reset).slot 0).state = .loaded ∧
    (after (.slreqWrite 0xAB) (withSlot 0 .done .reset)).link.wrej = true ∧
    (after (.slreqWrite 0xAB) (withSlot 0 .done .reset)).host.slptr = 1 ∧
    (after (.slotselWrite 7) .reset).host.slotsel = 7 ∧ (after (.slotselWrite 8) .reset).link.wrej = true := by decide

theorem test_request_fields_at_their_ranges :
    ((after (.slotRequestFieldWrite .station 31) .reset).slot 0).station = 31 ∧
    (after (.slotRequestFieldWrite .station 32) .reset).link.wrej = true ∧
    ((after (.slotRequestFieldWrite .kind 2) .reset).slot 0).kind = .command ∧
    (after (.slotRequestFieldWrite .kind 3) .reset).link.wrej = true ∧
    ((after (.slotRequestFieldWrite .priority 0xFF) .reset).slot 0).priority = 15 ∧
    ((after (.slotRequestFieldWrite .length 32) .reset).slot 0).reqLen = 32 ∧
    (after (.slotRequestFieldWrite .length 33) .reset).link.wrej = true ∧
    (after (.slotRequestFieldWrite .code 1) (withSlot 0 .queued .reset)).link.wrej = true := by decide

theorem test_station_configuration :
    (0x06 : Byte) = 0#5 ++ AttentionMode.edge.bit ++ StationClass.off.code ∧
    ((after (.classWrite 0x06) .reset).station 0).cls = .off ∧
    ((after (.attentionModeWrite 0x06) .reset).station 0).mode = .edge ∧
    (after (.classWrite 0x03) .reset).link.wrej = true ∧ (after (.classWrite 0x08) .reset).link.wrej = true := by decide

theorem test_sticky_clears :
    (after (.clearWrej 0x80) (State.reset.rejectWrite)).link.wrej = false ∧
    (after (.clearWrej 0x40) (State.reset.rejectWrite)).link.wrej = true ∧
    (after (.clearOvr 0x04) (State.reset.setNotes { NotificationUnit.reset with ovr := true, nqovr := 2 })).notes.nqovr =
      0 := by decide

theorem test_settings_at_their_ranges :
    (after (.nthreshWrite 16) .reset).notes.nthresh = 16 ∧ (after (.nthreshWrite 17) .reset).link.wrej = true ∧
    (after (.nthreshWrite 0) .reset).link.wrej = true ∧ (after (.ienabWrite 15) .reset).host.ienab = 15 ∧
    (after (.ienabWrite 16) .reset).link.wrej = true ∧ (after (.fdefaultWrite 1) .reset).notes.fdefault = .drop ∧
    (after (.fdefaultWrite 2) .reset).link.wrej = true := by decide

theorem test_filter_fields_at_their_ranges :
    (after (.filterWrite .factv 3) .reset).notes.filters[0].action = .drop ∧
    (after (.filterWrite .factv 4) .reset).link.wrej = true ∧
    (after (.filterWrite .fkinds 0x7F) .reset).notes.filters[0].kinds = 0x7F ∧
    (after (.filterWrite .fkinds 0x80) .reset).link.wrej = true ∧
    (after (.filterWrite .fslo 31) .reset).notes.filters[0].stationLow = 30 ∧
    (after (.filterWrite .fshi 1) .reset).notes.filters[0].stationHigh = 0 ∧
    (after (.filterWrite .fslo 0) .reset).link.wrej = true ∧ (after (.filterWrite .fshi 32) .reset).link.wrej = true := by
  decide

theorem test_configuration_at_its_ranges :
    (after (.configurationWrite .rwin 250) .reset).link.config.rwin = 250 ∧
    (after (.configurationWrite .rwin 251) .reset).link.wrej = true ∧
    (after (.configurationWrite .rwin 4) .reset).link.wrej = true ∧
    (after (.configurationWrite .rate 3) (atClock 100 .reset)).receiver.idleSince = some 100 ∧
    (after (.configurationWrite .burst 8) running).link.wrej = true := by decide

theorem test_selectors_and_read_only :
    (after (.registerWrite 0x27 31) .reset).host.slptr = 31 ∧ (after (.registerWrite 0x27 32) .reset).link.wrej = true ∧
    (after (.registerWrite 0x31 31) .reset).host.stasel = 30 ∧ (after (.registerWrite 0x31 0) .reset).link.wrej = true ∧
    (after (.registerWrite 0x39 7) .reset).host.fsel = 7 ∧ (after (.registerWrite 0x39 8) .reset).link.wrej = true ∧
    (after (.registerWrite 0x05 0) .reset).link.wrej = true ∧ (after (.registerWrite 0x1F 0) .reset).link.wrej = true ∧
    (after (.registerWrite 0x30 0) .reset).link.wrej = true ∧ (after (.registerWrite 0x38 0) .reset).link.wrej = true := by
  decide

/-! ### The line -/

theorem test_start_bit_seen_confirmed_and_discarded :
    (after .startBitEdge (atClock 9 .reset)).receiver.edge = some 9 ∧
    (after .startBitEdge (atClock 76 (hearing 0 .reset))).receiver.edge = some 76 ∧
    (after .startBitEdge (atClock 75 (hearing 0 .reset))).receiver.edge = none ∧
    (after (.startBitConfirmation true) (atClock 13 (after .startBitEdge (atClock 9 .reset)))).receiver.assembling =
      some { start := 9, bitTime := 8 } ∧
    (after (.startBitConfirmation false) (atClock 13 (after .startBitEdge (atClock 9 .reset)))).receiver.idleSince =
      some 0 ∧
    (after (.startBitConfirmation true) (atClock 12 (after .startBitEdge (atClock 9 .reset)))).receiver.edge =
      some 9 := by decide

/-- Log 32 and R4: a second edge while one awaits its confirmation, and an edge on a line held low, are not seen. -/
theorem test_edges_that_are_not_seen :
    (after .startBitEdge (atClock 11 (after .startBitEdge (atClock 9 .reset)))).receiver.edge = some 9 ∧
    (after .startBitEdge (atClock 9 (State.reset.setReceiver
      { Receiver.reset with heldLow := true, idleSince := none }))).receiver.edge = none := by decide

/-- R15: an edge at the expiry of the window, taken first, begins the reply; a later one does not. -/
theorem test_reply_begins_at_the_edge_of_the_window :
    ((after (.startBitConfirmation true) (atClock 984 ((pollInFlight (.awaitingReply 980) running).setReceiver
      { Receiver.reset with edge := some 980 }))).engine.map (fun e => e.phase)) = some (.receiving 980 []) ∧
    ((after (.startBitConfirmation true) (atClock 985 ((pollInFlight (.awaitingReply 980) running).setReceiver
      { Receiver.reset with edge := some 981 }))).engine.map (fun e => e.phase)) = some (.awaitingReply 980) := by
  decide

theorem test_gap_and_idle_line :
    (after .turnaroundGap (atClock 240 .reset)).receiver.gapPassed = true ∧
    (after .turnaroundGap (atClock 239 .reset)).receiver.gapPassed = false ∧
    (after .rxdSeenHigh (atClock 5 (State.reset.setReceiver
      { Receiver.reset with heldLow := true, idleSince := none }))).receiver.idleSince = some 5 := by decide

theorem test_byte_outside_a_reply :
    (after (.byteReceived 0 false) (atClock 80 (hearing 0 .reset))).receiver.heldLow = true ∧
    (after (.byteReceived 0xC5 true) (atClock 80 (hearing 0 .reset))).receiver.lastEnd = 80 ∧
    (after (.byteReceived 0xC5 true) (atClock 79 (hearing 0 .reset))).receiver.lastEnd = 0 := by decide

/-- The echo of a POLL to station 3: a match, the last match, a mismatch, a byte too late. -/
theorem test_echo :
    ((after (.byteReceived 0xC5 true) (atClock 80 (hearing 0 (pollInFlight (.transmitting 0) running)))).engine.map
      (fun e => e.phase)) = some (.transmitting 1) ∧
    ((after (.byteReceived 0x6E true) (atClock 480 (hearing 400 (pollInFlight (.transmitting 5) running)))).engine.map
      (fun e => e.phase)) = some (.awaitingReply 980) ∧
    (after (.byteReceived 0x6F true) (atClock 480 (hearing 400 (pollInFlight (.transmitting 5) running)))).link.lineErrors =
      1 ∧
    (after (.byteReceived 0xC5 true) (atClock 88 (hearing 8 (pollInFlight (.transmitting 0) running)))).engine.isSome =
      true ∧
    (after (.byteReceived 0xC5 true) (atClock 89 (hearing 9 (pollInFlight (.transmitting 0) running)))).engine.isSome =
      false := by decide +kernel

/-- A time mark ends in SENT at its last match. -/
theorem test_time_mark_sent :
    (after (.byteReceived (byteAt (running.buildFrame .timeMark) 9) true) (atClock 800 (hearing 720 (running.setEngine
      (some { job := .timeMark, frame := running.buildFrame .timeMark, startedAt := 0, phase := .transmitting 9 }))))).engine =
      none := by decide +kernel

/-- The reply of station 3 to its POLL: STATUS 0x55 with attention code 0x30. -/
def statusReply : List Byte := frameOf 3 1 false 0x30 [0x55]

theorem test_reply_bytes :
    judge (.poll 2) [0xC5] = .incomplete ∧ judge (.poll 2) [0x3F] = .bad ∧
    judge (.poll 2) statusReply =
      .valid { kind := .status, attention := false, code := 0x30, payload := [0x55] } ∧
    ((after (.byteReceived 0xC5 true) (atClock 780 (hearing 700 (pollInFlight (.receiving 700 []) running)))).engine.map
      (fun e => e.phase)) = some (.receiving 700 [0xC5]) ∧
    ((after (.byteReceived 0x3F true) (atClock 780 (hearing 700 (pollInFlight (.receiving 700 []) running)))).engine.map
      (fun e => e.phase)) = some (.quietWait 700 [0x3F] 3900) ∧
    ((after (.byteReceived (byteAt statusReply 6) true) (atClock 1260 (hearing 1180
      (pollInFlight (.receiving 700 (statusReply.take 6)) running)))).station 2).lastStatus = 0x55 := by decide +kernel

/-- R29: a line that goes low in the window and stays low is no reply, and the window ends in MISS; a byte 0 with a high
stop bit, or later in a reply, is a byte like any other. -/
theorem test_low_line_is_no_reply :
    ((after (.byteReceived 0 false) (atClock 780 (hearing 700 (pollInFlight (.receiving 700 []) running)))).engine.map
      (fun e => e.phase)) = some (.awaitingReply 980) ∧
    ((after .responseWindowExpiry (atClock 980 (after (.byteReceived 0 false) (atClock 780 (hearing 700
      (pollInFlight (.receiving 700 []) running)))))).station 2).missCount = 1 ∧
    ((after (.byteReceived 0 true) (atClock 780 (hearing 700 (pollInFlight (.receiving 700 []) running)))).engine.map
      (fun e => e.phase)) = some (.quietWait 700 [0] 3900) ∧
    ((after (.byteReceived 0 false) (atClock 860 (hearing 780 (pollInFlight (.receiving 700 [0xC5]) running)))).engine.map
      (fun e => e.phase)) = some (.quietWait 700 [0xC5, 0] 3900) ∧
    (after .responseWindowExpiry (atClock 990 ((pollInFlight (.awaitingReply 980) running).setReceiver
      { Receiver.reset with idleSince := some 985 }))).receiver.idleSince = some 985 := by decide +kernel

/-- R26: a byte whose end is the limit is delivered first.  R17: the gap follows a frame stopped unheard. -/
theorem test_echo_limit_and_gap :
    (after .echoLimit (atClock 88 (hearing 8 (pollInFlight (.transmitting 0) running)))).engine.isSome = true ∧
    (after .echoLimit (atClock 88 (hearing 9 (pollInFlight (.transmitting 0) running)))).engine.isSome = false ∧
    (after .echoLimit (atClock 88 ((pollInFlight (.transmitting 0) running).setReceiver
      { Receiver.reset with gapPassed := true }))).receiver.gapPassed = false ∧
    (after .echoLimit (atClock 88 (pollInFlight (.transmitting 0) running))).receiver.idleSince = some 88 ∧
    (after .echoLimit (atClock 168 ((pollInFlight (.transmitting 1) running).setReceiver
      { Receiver.reset with idleSince := some 80 }))).receiver.idleSince = some 80 := by decide +kernel

theorem test_limits :
    (after .echoLimit (atClock 88 (pollInFlight (.transmitting 0) running))).link.lineErrors = 1 ∧
    (after .echoLimit (atClock 87 (pollInFlight (.transmitting 0) running))).link.lineErrors = 0 ∧
    ((after .responseWindowExpiry (atClock 980 (pollInFlight (.awaitingReply 980) running))).station 2).missCount = 1 ∧
    ((after .responseWindowExpiry (atClock 979 (pollInFlight (.awaitingReply 980) running))).station 2).missCount = 0 ∧
    (after .responseWindowExpiry (atClock 984 ((pollInFlight (.awaitingReply 980) running).setReceiver
      { Receiver.reset with edge := some 980 }))).engine.isSome = true ∧
    ((after .quietCount (atClock 160 (pollInFlight (.quietWait 700 [0x3F] 3900) running))).station 2).faultCounter = 4 ∧
    ((after .quietCount (atClock 159 (pollInFlight (.quietWait 700 [0x3F] 3900) running))).station 2).faultCounter = 0 ∧
    (after .quietWaitDeadline (atClock 3900 (pollInFlight (.quietWait 700 [0x3F] 3900) running))).link.lineErrors = 1 ∧
    (after .quietWaitDeadline (atClock 3899 (pollInFlight (.quietWait 700 [0x3F] 3900) running))).link.lineErrors = 0 := by decide +kernel

theorem test_cut_off :
    ((after .replyCutOff (atClock 160 (pollInFlight (.receiving 0 [0xC5]) running))).station 2).faultCounter = 4 ∧
    ((after .replyCutOff (atClock 160 ((pollInFlight (.receiving 0 [0xC5]) running).setReceiver
      { Receiver.reset with heldLow := true, idleSince := none }))).engine.map (fun e => e.phase)) =
      some (.quietWait 0 [0xC5] 3200) ∧
    (after .replyCutOff (atClock 159 (pollInFlight (.receiving 0 [0xC5]) running))).engine.isSome = true ∧
    (after .replyCutOff (atClock 160 (pollInFlight (.receiving 0 []) running))).engine.isSome = true := by decide

/-! ### Frames and replies -/

theorem test_request_frame :
    (running.setSlot 2 { running.slot 2 with
      code := 0x05, station := 12, reqLen := 1, reqBytes := (running.slot 2).reqBytes.set 0 0x77 }).buildFrame
      (.request 2 .fetch 11 true) =
      [0xC5, 0x62, 0x81, 0x05, 0x77] ++ checkBytes (crc16 [0x62, 0x81, 0x05, 0x77]) := by decide +kernel

theorem test_legal_reply_premises :
    ReplyKind.ofBits? 2 = some .data ∧ (Job.request 2 .fetch 11 true).legalReply .data = true ∧
    ReplyKind.data.lengthFits 32 = true ∧ ReplyKind.data.lengthFits 33 = false ∧
    ReplyKind.ack.lengthFits 0 = true ∧ ReplyKind.status.lengthFits 1 = true := by decide

/-- R8: a check byte that is not the one recomputed makes a complete reply bad, one byte before the end nothing does. -/
theorem test_check_byte_wrong :
    judge (.poll 2) (statusReply.set 6 (byteAt statusReply 6 + 1)) = .bad ∧
    judge (.poll 2) (statusReply.take 6) = .incomplete ∧ statusReply.length = 7 := by decide +kernel

/-! ### Scheduling -/

/-- `running` on a free line, with its poll item. -/
def free : State :=
  (running.setReceiver { Receiver.reset with gapPassed := true }).setSched
    { running.sched with roundList := [⟨2, .poll⟩] }

theorem test_choice_of_each_order :
    free.availableJob? = some (.poll 2) ∧ (after .schedulerChoice free).txen = true ∧
    (free.setTime { free.time with pendingMark := true }).availableJob? = some .timeMark ∧
    (free.setStation 2 { free.station 2 with resync := true, ackPending := true }).availableJob? =
      some (.probe .resync 2) ∧
    (free.setStation 2 { free.station 2 with ackPending := true }).availableJob? = some (.attnAck 2) ∧
    ((withSlot 1 .queued free).setService [1]).availableJob? = some (.request 1 .fetch 2 false) ∧
    (((withSlot 1 .queued free).setService [1]).setSched { free.sched with burstCounter := 4 }).availableJob? =
      some (.poll 2) ∧
    ((inLink .starting free).setSched { free.sched with discovery := [2] }).availableJob? =
      some (.probe .discovery 2) ∧
    running.availableJob? = none ∧ (inLink .held free).availableJob? = none := by decide

/-- R1, R2, R11: the pins at the bits of the lead byte, at the end of the last stop bit and with nothing in flight. -/
theorem test_pins_of_a_frame :
    (List.range 10).map (fun k => (atClock (8 * k + 7) (pollInFlight (.transmitting 0) running)).txd) =
      [false, true, false, true, false, false, false, true, true, true] ∧
    (atClock 479 (pollInFlight (.transmitting 5) running)).txen = true ∧
    (atClock 480 (pollInFlight (.transmitting 5) running)).txen = false ∧
    (atClock 480 (pollInFlight (.transmitting 5) running)).txd = true ∧ running.txen = false := by decide +kernel

/-- R75, R76: an ordered slot waits behind an earlier slot of its station; the lower priority value goes first. -/
theorem test_chosen_slot :
    (((withSlot 1 .queued (withSlot 4 .waiting running)).setSlot 1
      { (withSlot 1 .queued running).slot 1 with ordered := true }).setService [4, 1]).chosenSlot? = none ∧
    (((withSlot 1 .queued (withSlot 4 .queued running)).setSlot 1
      { (withSlot 1 .queued running).slot 1 with priority := 3 }).setService [1, 4]).chosenSlot? = some 4 ∧
    ((withSlot 1 .queued (withSlot 4 .queued running)).setService [1, 4]).chosenSlot? = some 1 := by decide

theorem test_round_build_at_a_multiple :
    (startRound ((withStation 5 .isolated (withStation 3 .absent running)).setSched
      { running.sched with roundCounter := 15 })).sched.roundList =
      [⟨2, .poll⟩, ⟨3, .probe⟩, ⟨5, .recoveryProbe⟩] ∧
    (startRound running).sched.roundList = [⟨2, .poll⟩] ∧
    (startRound running).sched.roundTimer = .running 20000 ∧
    (startRound (running.setLink { running.link with config := { running.link.config with round := 0 } })).sched.roundTimer =
      .noExpiry ∧
    (startRound (State.reset.setLink { LinkUnit.reset with config := { TimingConfig.reset with round := 0 } })).sched.roundTimer =
      .running 1000 := by decide

theorem test_removals :
    (afterRemoval (inLink .starting .reset)).link.state = .running ∧
    (afterRemoval (running.setSched { running.sched with roundTimer := .expired })).sched.roundList = [⟨2, .poll⟩] ∧
    (afterRemoval running).sched.roundList = [] := by decide

theorem test_timer_expiries :
    (after .roundTimerExpiry (atClock 20000 free)).sched.rlate = true ∧
    (after .roundTimerExpiry (atClock 19999 free)).sched.rlate = false ∧
    (after .roundTimerExpiry (atClock 20000 running)).sched.roundList = [⟨2, .poll⟩] ∧
    (after .roundTimerExpiry (atClock 20000 (inLink .held running))).sched.roundTimer = .expired ∧
    ((after (.backoffExpiry 6) (atClock 1000 (running.setSlot 6
      { running.slot 6 with state := .waiting, backoff := some 1000 }))).slot 6).state = .queued ∧
    ((after (.backoffExpiry 6) (atClock 999 (running.setSlot 6
      { running.slot 6 with state := .waiting, backoff := some 1000 }))).slot 6).state = .waiting ∧
    (after .intervalTimerExpiry (atClock 10000 (running.setTime
      { running.time with interval := some ⟨10000, 10000⟩ }))).time.interval = some ⟨20000, 10000⟩ ∧
    (after .intervalTimerExpiry (atClock 9999 (running.setTime
      { running.time with interval := some ⟨10000, 10000⟩ }))).time.pendingMark = false := by decide

/-! ### Reports -/

/-- A report of a job with an outcome and no reply. -/
def bare (j : Job) (o : ExchangeOutcome) : Report :=
  { job := j, frameWhole := true, outcome := o, reply := none, decidedAt := 7, endTime := 7 }

/-- `running` with entry 2 in a state and with counters. -/
def health (x : StationState) (faults misses : Nat) : State :=
  running.setStation 2 { running.station 2 with state := x, faultCounter := faults, missCount := misses }

/-- "A station's health worked through" (section 3.3), at each threshold. -/
theorem test_health_worked_through :
    ((stationStep (bare (.poll 2) .badReply) (health .online 14 0)).1.station 2).faultCounter = 18 ∧
    (stationStep (bare (.poll 2) .miss) (health .online 22 1)).2 = some .degraded ∧
    (stationStep (bare (.poll 2) .miss) (health .degraded 45 0)).2 = some .isolated ∧
    (stationStep (bare (.poll 2) .good) (health .degraded 16 0)).2 = some .healthy ∧
    (stationStep (bare (.poll 2) .good) (health .degraded 17 0)).2 = none ∧
    (stationStep (bare (.poll 2) .badReply) (health .online 19 0)).2 = none ∧
    (stationStep (bare (.poll 2) .miss) (health .degraded 44 3)).2 = some .lost ∧
    (stationStep (bare (.poll 2) .lineError) (health .online 19 0)).2 = none ∧
    (stationStep (bare (.probe .recovery 2) .miss) (health .isolated 49 3)).2 = some .lost ∧
    ((stationStep (bare (.probe .recovery 2) .miss) (health .isolated 49 2)).1.station 2).missCount = 3 := by decide

theorem test_bounds_premise : ((health .degraded 47 3).station 2).countersBounded := by
  exact ⟨by decide, by decide, by decide⟩

/-- A PRESENT reply with attention. -/
def present : Reply := { kind := .present, attention := true, code := 0x31, payload := [0x21] }

theorem test_found_then_attention :
    (withStation 4 .absent running).notes.filters[0].active = false ∧
    (takeReport { bare (.probe .absentStation 4) .good with reply := some present }
      (withStation 4 .absent running)).notes.queue = [⟨.found, 4, 0x21, 7⟩, ⟨.attn, 4, 0x31, 7⟩] ∧
    (takeReport { bare (.probe .recovery 2) .good with reply := some present } (health .isolated 49 1)).notes.queue =
      [⟨.restored, 2, 0, 7⟩, ⟨.attn, 2, 0x31, 7⟩] := by decide

theorem test_toggle_flips :
    ((stationStep (bare (.request 1 .fetch 2 false) .refused) running).1.station 2).nextToggle = true ∧
    ((stationStep (bare (.request 1 .fetch 2 false) .busy) running).1.station 2).nextToggle = false := by decide

/-- A STATUS reply with a status byte. -/
def status : Reply := { kind := .status, attention := false, code := 0, payload := [0x55] }

/-- R43, R55, R57: the records of a poll, of a resync probe and of the MISS that loses a station. -/
theorem test_records :
    ((stationStep { bare (.poll 2) .good with reply := some status } running).1.station 2).lastStatus = 0x55 ∧
    ((stationStep { bare (.probe .resync 2) .good with reply := some present } (running.setStation 2
      { running.station 2 with resync := true, nextToggle := true, missCount := 3 })).1.station 2).resync = false ∧
    ((stationStep { bare (.probe .resync 2) .good with reply := some present } (running.setStation 2
      { running.station 2 with resync := true, nextToggle := true, missCount := 3 })).1.station 2).stationType = 0x21 ∧
    ((stationStep (bare (.probe .resync 2) .badReply) (running.setStation 2
      { running.station 2 with resync := true, missCount := 3 })).1.station 2).resync = true ∧
    ((stationStep (bare (.probe .resync 2) .miss) (running.setStation 2
      { running.station 2 with resync := true, missCount := 3 })).1.station 2).resync = false := by decide

/-- R123: the rows of an ATTNACK with no reply. -/
theorem test_attnack_without_a_reply :
    [ExchangeOutcome.miss, .badReply, .lineError].map (fun o => ((attentionStep (bare (.attnAck 2) o)
      (running.setStation 2 { running.station 2 with ackPending := true, mode := .edge })).station 2).ackPending) =
      [true, true, true] := by decide

theorem test_attention_rows :
    ((attentionStep { bare (.poll 2) .good with reply := some present } running).station 2).attnCode = 0x31 ∧
    (attentionStep { bare (.poll 2) .good with reply := some present }
      (running.setStation 2 { running.station 2 with ackPending := true, mode := .edge })).notes.queue = [] ∧
    ((attentionStep { bare (.attnAck 2) .good with reply := some { present with attention := false } }
      (running.setStation 2 { running.station 2 with ackPending := true, mode := .edge })).station 2).ackPending =
      false := by decide

/-- R132: an earlier entry carves an exception out of a later one; R135: the 17th entry is an overrun. -/
theorem test_filter_and_overrun :
    (({ NotificationUnit.reset with
        filters := NotificationUnit.reset.filters.set 0
          { FilterEntry.reset with active := true, action := .drop, kinds := 1, codeLow := 0xF0 } }).offer
      ⟨.attn, 2, 0xF0, 0⟩).queue = [] ∧
    (({ NotificationUnit.reset with
        filters := NotificationUnit.reset.filters.set 0
          { FilterEntry.reset with active := true, action := .drop, kinds := 1, codeLow := 0xF0 } }).offer
      ⟨.attn, 2, 0xEF, 0⟩).queue.length = 1 ∧
    (({ NotificationUnit.reset with queue := List.replicate 16 ⟨.attn, 2, 0, 0⟩, nqovr := 255 }).offer
      ⟨.attn, 2, 0, 0⟩).nqovr = 255 ∧
    (({ NotificationUnit.reset with queue := List.replicate 16 ⟨.attn, 2, 0, 0⟩ }).offer ⟨.attn, 2, 0, 0⟩).nqovr = 1 ∧
    (({ NotificationUnit.reset with queue := List.replicate 15 ⟨.attn, 2, 0, 0⟩ }).offer
      ⟨.attn, 2, 0, 0⟩).queue.length = 16 := by decide

/-- Slot 1 ACTIVE for station 3 with counts. -/
def activeSlot (busy fails : Nat) : State :=
  (running.setSlot 1 { (withSlot 1 .active running).slot 1 with busyCount := busy, failCount := fails }).setService [1]

theorem test_slot_outcomes :
    ((slotStep (bare (.request 1 .store 2 false) .busy) none (activeSlot 2 0)).slot 1).backoff = some 1007 ∧
    ((slotStep (bare (.request 1 .store 2 false) .busy) none (activeSlot 3 0)).slot 1).outcome = .busyLimit ∧
    ((slotStep (bare (.request 1 .store 2 false) .miss) none (activeSlot 0 1)).slot 1).failCount = 2 ∧
    ((slotStep (bare (.request 1 .store 2 false) .miss) none (activeSlot 0 2)).slot 1).outcome = .noReply ∧
    ((slotStep (bare (.request 1 .store 2 false) .miss) none (activeSlot 0 2)).station 2).resync = true ∧
    ((slotStep (bare (.request 1 .store 2 false) .lineError) none (activeSlot 0 2)).slot 1).state = .queued ∧
    ((slotStep { bare (.request 1 .store 2 false) .good with reply := some ⟨.ack, false, 0, []⟩ } none
      (activeSlot 2 0)).slot 1).outcome = .ok ∧
    ((slotStep { bare (.request 1 .store 2 false) .refused with reply := some ⟨.refuse, false, 0, [9]⟩ } none
      (activeSlot 2 0)).slot 1).reason = 9 := by decide

/-- "Station 12 lost with three slots in service" (section 11.7), on station 3, and the other overrides. -/
theorem test_overrides :
    ((slotStep (bare (.request 1 .store 2 false) .miss) (some .lost) (activeSlot 0 0)).slot 1).outcome = .stationLost ∧
    ((slotStep (bare (.request 1 .store 2 false) .miss) (some .lost)
      ((withSlot 4 .queued (activeSlot 0 0)).setService [4, 1])).slot 4).outcome = .stationLost ∧
    ((slotStep (bare (.request 1 .store 2 false) .badReply) (some .isolated) (activeSlot 0 1)).slot 1).outcome =
      .stationIsolated ∧
    ((slotStep (bare (.request 1 .store 2 false) .badReply) (some .isolated) (activeSlot 0 2)).slot 1).outcome =
      .badReply ∧
    ((slotStep (bare (.request 1 .store 2 false) .miss) none (inLink .stopping (activeSlot 0 0))).slot 1).outcome =
      .stopped ∧
    ((slotStep (bare (.request 1 .store 2 false) .miss) none ((activeSlot 0 0).setStation 2
      { running.station 2 with disablePending := true })).slot 1).outcome = .stationDisabled := by decide

/-- R86: BUSY and LINEERROR under STOPPING and disable-pending, a result that stands; R78: a poll's mass failure. -/
theorem test_overrides_of_each_result :
    ((slotStep (bare (.request 1 .store 2 false) .busy) none (inLink .stopping (activeSlot 2 0))).slot 1).outcome =
      .stopped ∧
    ((slotStep (bare (.request 1 .store 2 false) .busy) none (inLink .stopping (activeSlot 2 0))).slot 1).busyCount = 3 ∧
    ((slotStep (bare (.request 1 .store 2 false) .lineError) (some .degraded) ((activeSlot 0 0).setStation 2
      { running.station 2 with disablePending := true })).slot 1).outcome = .stationDisabled ∧
    ((slotStep (bare (.request 1 .store 2 false) .busy) none (inLink .stopping (activeSlot 3 0))).slot 1).outcome =
      .busyLimit ∧
    ((slotStep { bare (.request 1 .store 2 false) .good with reply := some ⟨.ack, false, 0, []⟩ } none
      (inLink .stopping (activeSlot 0 0))).slot 1).outcome = .ok ∧
    ((slotStep (bare (.poll 2) .miss) (some .lost) ((withSlot 4 .waiting running).setService [4])).slot 4).outcome =
      .stationLost ∧
    (slotStep (bare (.attnAck 2) .miss) (some .isolated) ((withSlot 4 .waiting running).setService [4])).service = [] ∧
    (slotStep (bare (.poll 5) .miss) (some .lost) ((withSlot 4 .waiting running).setService [4])).service = [4] := by
  decide

/-- R104, R109: which entry leaves its list. -/
theorem test_entries_leave :
    (leaveList (.poll 2) free).sched.roundList = [] ∧
    (leaveList (.poll 3) free).sched.roundList = [⟨2, .poll⟩] ∧
    (leaveList (.attnAck 2) free).sched.roundList = [⟨2, .poll⟩] ∧
    (leaveList (.probe .discovery 2) (free.setSched { free.sched with discovery := [2, 4] })).sched.discovery = [4] ∧
    (takeReport (bare (.poll 2) .badReply) free).sched.roundList = [] ∧
    (disableStep (bare (.poll 2) .good) (free.setStation 2
      { free.station 2 with disablePending := true })).sched.roundList = [] ∧
    (disableStep (bare (.poll 2) .good) free).sched.roundList = [⟨2, .poll⟩] := by decide

theorem test_deferred_disable :
    ((takeReport (bare (.poll 2) .good) (running.setStation 2
      { running.station 2 with disablePending := true })).station 2).state = .unused := by decide

theorem test_link_moves :
    (linkStep (bare (.poll 2) .lineError) running).link.lineErrors = 1 ∧
    (linkStep (bare (.poll 2) .lineError) (running.setLink { running.link with lineErrors := 7 })).link.state =
      .faulted ∧
    (linkStep (bare (.poll 2) .lineError) (running.setLink { running.link with lineErrors := 6 })).link.state =
      .running ∧
    (linkStep (bare (.poll 2) .miss) (inLink .holding running)).link.state = .held ∧
    (linkStep (bare (.poll 2) .lineError)
      (running.setLink { running.link with state := .stopping, lineErrors := 7 })).link.state = .stopped ∧
    (linkStep (bare (.poll 2) .good) (running.setLink { running.link with lineErrors := 7 })).link.lineErrors = 0 := by
  decide

theorem test_line_error_premises :
    (bare (.poll 2) .lineError).reply = none ∧ (∀ m, (running.station m).disablePending = false) ∧
    (takeReport (bare (.poll 2) .lineError) running).engine = none := by decide

/-! ### States for the statements about every command -/

/-- A state with a finished slot, and a command waiting. -/
def finished : State :=
  { withSlot 1 .done .reset with pending := [.enable] }

theorem test_finished_stations (n : StationId) : finished.station n = Station.reset := by
  revert n; decide +kernel

theorem test_finished_bounds (n : StationId) : (finished.station n).countersBounded := by
  rw [test_finished_stations n]; exact ⟨by decide, rfl, rfl⟩

theorem test_finished_slots (i : SlotId) :
    (finished.slot i).inService = false ∧ (finished.slot i).state ≠ .active ∧ (finished.slot i).state ≠ .waiting ∧
      (finished.slot i).backoff = none := by
  revert i; decide +kernel

/-- The invariant holds of a state that is not the one after reset. -/
theorem test_finished_keeps_the_invariant : finished.Inv where
  stations n := ⟨test_finished_bounds n, by
    rw [test_finished_stations n]; unfold Station.attentionOk Station.idleFieldsClear; decide⟩
  disablePending n h := by rw [test_finished_stations n] at h; cases h
  link := ⟨rfl, rfl, rfl, rfl, rfl, rfl, by decide⟩
  burst h := absurd rfl h
  engine := trivial
  service := by
    refine ⟨⟨List.nodup_nil, fun i => ?_, fun i => ?_⟩, fun i => ?_⟩
    · rw [(test_finished_slots i).1]; exact ⟨fun h => (List.not_mem_nil h).elim, fun h => by cases h⟩
    · rw [(test_finished_slots i).2.2.2]
      exact ⟨fun h => (by cases h), fun h => ((test_finished_slots i).2.2.1 h).elim⟩
    · exact ⟨fun h => ((test_finished_slots i).2.1 h).elim, fun h => h.elim⟩
  law := by
    refine ⟨fun i h => ?_, fun _ i => (test_finished_slots i).1⟩
    rw [(test_finished_slots i).1] at h; cases h
  queue := by unfold State.queueOk; decide
  config r := by cases r <;> decide
  lists := ⟨List.Pairwise.nil, fun _ h => (List.not_mem_nil h).elim, List.Pairwise.nil, fun _ h => (List.not_mem_nil h).elim⟩
  clocks := rfl

theorem test_finished_premises :
    (finished.slot 1).state = .done ∧ Instr.wellFormed .enable = true ∧ finished.notes.queue.length ≤ 16 ∧
    (after .enable (arg 3 finished)).slot 1 = finished.slot 1 ∧
    (match step finished with | .next t => t.pending = [] | .fault _ => False | .refused _ => False) := by
  refine ⟨by decide, by decide, by decide, by decide +kernel, rfl⟩

theorem test_configuration_changes :
    (after (.configurationWrite .burst 7) finished).link.config ≠ finished.link.config ∧
    (after (.configurationWrite .burst 7) running).link.config = running.link.config := by decide +kernel
theorem test_no_exchange_without_a_choice :
    running.engine = none ∧ (after .roundTimerExpiry (atClock 20000 running)).engine = none := by decide +kernel
end Sys2Proof.Tests
end

section
/-! SUPPORT. The events of the line while the part runs: what each does, said once, and the statements on the start bit,
the idle line, the bytes outside a reply and the limits of an exchange. -/

namespace Sys2Proof.Machine

/-! ### Times and instants -/

theorem byteEnd_eq (a : Assembly) : a.byteEnd = a.start + 10 * a.bitTime := rfl

theorem idleFor_iff (s : State) (n : Nat) :
    s.idleFor n = true ↔ ∃ t, s.receiver.idleSince = some t ∧ t + n * s.byteTime ≤ s.clock := by
  unfold State.idleFor
  cases s.receiver.idleSince <;> simp

theorem idleFor_of_counting {s : State} {t : Nat} (n : Nat) (h : s.receiver.idleSince = some t) :
    s.idleFor n = true ↔ t + n * s.byteTime ≤ s.clock := by
  simp [idleFor_iff, h]

theorem not_idleFor_of_stopped {s : State} (n : Nat) (h : s.receiver.idleSince = none) : ¬s.idleFor n = true := by
  simp [idleFor_iff, h]

theorem byteDueBy_iff (s : State) (limit : Nat) :
    s.byteDueBy limit = true ↔ ∃ a, s.receiver.assembling = some a ∧ a.start + 10 * a.bitTime ≤ limit := by
  unfold State.byteDueBy
  cases s.receiver.assembling with
  | none => simp
  | some a => exact decide_eq_true_iff.trans (by simp [byteEnd_eq])

theorem edgeHolds_iff (s : State) (limit : Nat) :
    s.edgeHolds limit = true ↔ ∃ t, s.receiver.edge = some t ∧ t ≤ limit := by
  unfold State.edgeHolds
  cases s.receiver.edge <;> simp

theorem edgeHolds_eq_false_iff (s : State) (limit : Nat) :
    s.edgeHolds limit = false ↔ ∀ t, s.receiver.edge = some t → limit < t := by
  rw [← Bool.not_eq_true, edgeHolds_iff]
  simp

theorem gapOpen_iff (s : State) :
    s.gapOpen = true ↔
      s.receiver.assembling = none ∧ ∀ t, s.receiver.edge = some t → s.receiver.lastEnd + 2 * s.byteTime < t := by
  unfold State.gapOpen
  rw [Bool.and_eq_true, Bool.not_eq_true', edgeHolds_eq_false_iff, Option.isNone_iff_eq_none]
  rfl

/-- R36: the instant of the step is stamped with the time counter as it stands. -/
theorem counterAt_clock (s : State) : s.counterAt s.clock = s.time.counter := by
  unfold State.counterAt
  exact BitVec.add_sub_cancel _ _

/-! ### The receiver -/

theorem edgeSeen_iff (s : State) :
    s.edgeSeen = true ↔
      s.receiver.edge = none ∧ s.receiver.heldLow = false ∧
        ∀ a, s.receiver.assembling = some a → a.start + 9 * a.bitTime + a.bitTime / 2 ≤ s.clock := by
  unfold State.edgeSeen
  cases s.receiver.assembling <;> simp [and_assoc]

theorem fallingEdge_of_seen {s : State} (h : s.edgeSeen = true) :
    fallingEdge s = s.setReceiver { s.receiver with edge := some s.clock } := if_pos h

theorem fallingEdge_of_not_seen {s : State} (h : ¬s.edgeSeen = true) : fallingEdge s = s := if_neg h

/-- R4: the sample has come for an edge that awaits its confirmation. -/
theorem confirmStartBit_at_sample {s : State} {t : Nat} (low : Bool) (he : s.receiver.edge = some t)
    (ha : s.receiver.assembling = none) (ht : t + s.bitTime / 2 ≤ s.clock) :
    confirmStartBit low s =
      if low then beginReply t (s.setReceiver (s.receiver.confirm t s.bitTime))
      else s.setReceiver { s.receiver with edge := none } := by
  simp [confirmStartBit, he, ha, ht]

theorem confirmStartBit_of_no_sample {s : State} (low : Bool)
    (h : ∀ t, s.receiver.edge = some t → s.receiver.assembling = none → s.clock < t + s.bitTime / 2) :
    confirmStartBit low s = s := by
  unfold confirmStartBit
  cases he : s.receiver.edge with
  | none => rfl
  | some t =>
    refine if_neg fun hs => ?_
    have := h t he hs.2
    omega

theorem beginReply_in_window {s : State} {e : Exchange} {w edge : Nat} (he : s.engine = some e)
    (hp : e.phase = .awaitingReply w) (h : edge ≤ w) :
    beginReply edge s = s.setEngine (some { e with phase := .receiving edge [] }) := by
  simp [beginReply, he, hp, h]

theorem beginReply_outside_window {s : State} {edge : Nat}
    (h : ∀ e w, s.engine = some e → e.phase = .awaitingReply w → w < edge) : beginReply edge s = s := by
  unfold beginReply
  split
  · next e he =>
    split
    · next w hp => exact if_neg (Nat.not_le.mpr (h e w he hp))
    · rfl
    · rfl
    · rfl
  · rfl

/-- R4: the byte that has reached its end goes to the receiver, and then to the engine. -/
theorem receiveByte_at_end {s : State} {a : Assembly} (v : Byte) (stopHigh : Bool)
    (ha : s.receiver.assembling = some a) (h : a.byteEnd ≤ s.clock) :
    receiveByte v stopHigh s =
      engineTakes v stopHigh a.byteEnd (s.setReceiver (s.receiver.deliver a.byteEnd stopHigh)) := by
  simp [receiveByte, ha, h]

theorem receiveByte_before_end {s : State} (v : Byte) (stopHigh : Bool)
    (h : ∀ a, s.receiver.assembling = some a → s.clock < a.byteEnd) : receiveByte v stopHigh s = s := by
  unfold receiveByte
  cases ha : s.receiver.assembling with
  | none => rfl
  | some a => exact if_neg (Nat.not_le.mpr (h a ha))

/-- R29, R33: while the engine waits for a reply or for quiet, and with no exchange, a byte does not concern it. -/
theorem engineTakes_of_waiting {s : State} (v : Byte) (stopHigh : Bool) (byteEnd : Nat)
    (h : ∀ e, s.engine = some e →
      (∃ w, e.phase = .awaitingReply w) ∨ ∃ began bytes d, e.phase = .quietWait began bytes d) :
    engineTakes v stopHigh byteEnd s = s := by
  unfold engineTakes
  cases he : s.engine with
  | none => rfl
  | some e =>
    rcases h e he with ⟨w, hp⟩ | ⟨began, bytes, d, hp⟩
    · simp only [hp]
    · simp only [hp]

theorem restartCount_of_idle {r : Receiver} {idle : Nat} (t : Nat) (h : r.idleSince = some idle) :
    r.restartCount t = { r with idleSince := some (max idle t), gapPassed := false } := by
  simp [Receiver.restartCount, h]

theorem restartCount_of_stopped {r : Receiver} (t : Nat) (h : r.idleSince = none) :
    r.restartCount t = { r with idleSince := none, gapPassed := false } := by
  simp [Receiver.restartCount, h]

/-! ### The limits of the engine, phase by phase -/

theorem echoLimitPasses_of_transmitting {s : State} {e : Exchange} {k : Nat} (he : s.engine = some e)
    (hp : e.phase = .transmitting k) :
    echoLimitPasses s =
      if s.echoLimitAt e k ≤ s.clock ∧ s.byteDueBy (s.echoLimitAt e k) = false then
        endExchange e false .lineError none s.clock (stopFrame k s)
      else s := by
  simp [echoLimitPasses, he, hp]

theorem windowExpires_of_awaiting {s : State} {e : Exchange} {w : Nat} (he : s.engine = some e)
    (hp : e.phase = .awaitingReply w) :
    windowExpires s =
      if w ≤ s.clock ∧ s.edgeHolds w = false then
        endExchange e true .miss none w (s.setReceiver (s.receiver.restartCount w))
      else s := by
  simp [windowExpires, he, hp]

theorem replyIsCutOff_of_receiving {s : State} {e : Exchange} {began : Nat} {bytes : List Byte}
    (he : s.engine = some e) (hp : e.phase = .receiving began bytes) :
    replyIsCutOff s =
      if bytes ≠ [] ∧ s.gapOpen = true ∧ s.gapLimit ≤ s.clock then
        if s.idleFor quietBytes then decideQuiet e s.clock s else findBad e began bytes s.clock s
      else s := by
  simp [replyIsCutOff, he, hp]

theorem quietCountReached_of_quietWait {s : State} {e : Exchange} {began d : Nat} {bytes : List Byte}
    (he : s.engine = some e) (hp : e.phase = .quietWait began bytes d) :
    quietCountReached s = if s.idleFor quietBytes then decideQuiet e s.clock s else s := by
  simp [quietCountReached, he, hp]

theorem quietDeadlinePasses_of_quietWait {s : State} {e : Exchange} {began d : Nat} {bytes : List Byte}
    (he : s.engine = some e) (hp : e.phase = .quietWait began bytes d) :
    quietDeadlinePasses s = if d ≤ s.clock then endExchange e true .lineError none d s else s := by
  simp [quietDeadlinePasses, he, hp]

/-! ### The rows while /RESET is high and CLK runs -/

section
variable {s : State} (hr : s.inReset = false) (hc : s.clkRunning = true)
include hr hc

theorem exec_startBitEdge_running : exec .startBitEdge s = .next (fallingEdge s) :=
  congrArg Host.Outcome.next (linkEvent_of_running _ hr hc)

theorem exec_startBitConfirmation_running (low : Bool) :
    exec (.startBitConfirmation low) s = .next (confirmStartBit low s) :=
  congrArg Host.Outcome.next (linkEvent_of_running _ hr hc)

theorem exec_rxdSeenHigh_running : exec .rxdSeenHigh s = .next (seenHigh s) :=
  congrArg Host.Outcome.next (linkEvent_of_running _ hr hc)

theorem exec_turnaroundGap_running : exec .turnaroundGap s = .next (gapPasses s) :=
  congrArg Host.Outcome.next (linkEvent_of_running _ hr hc)

theorem exec_byteReceived_running (v : Byte) (stopHigh : Bool) :
    exec (.byteReceived v stopHigh) s = .next (receiveByte v stopHigh s) :=
  congrArg Host.Outcome.next (linkEvent_of_running _ hr hc)

theorem exec_echoLimit_running : exec .echoLimit s = .next (echoLimitPasses s) :=
  congrArg Host.Outcome.next (linkEvent_of_running _ hr hc)

theorem exec_responseWindowExpiry_running : exec .responseWindowExpiry s = .next (windowExpires s) :=
  congrArg Host.Outcome.next (linkEvent_of_running _ hr hc)

theorem exec_replyCutOff_running : exec .replyCutOff s = .next (replyIsCutOff s) :=
  congrArg Host.Outcome.next (linkEvent_of_running _ hr hc)

theorem exec_quietCount_running : exec .quietCount s = .next (quietCountReached s) :=
  congrArg Host.Outcome.next (linkEvent_of_running _ hr hc)

theorem exec_quietWaitDeadline_running : exec .quietWaitDeadline s = .next (quietDeadlinePasses s) :=
  congrArg Host.Outcome.next (linkEvent_of_running _ hr hc)

theorem exec_schedulerChoice_running : exec .schedulerChoice s = .next (schedulerChooses s) :=
  congrArg Host.Outcome.next (linkEvent_of_running _ hr hc)

end

/-! ### The statements on the line -/

/-- Settles O28, by whether the line is held low and by the idle count. -/
theorem idleLineAndTurnaroundGap : Obligations.IdleLineAndTurnaroundGap := by
  intro s hr hc
  rw [exec_rxdSeenHigh_running hr hc, exec_turnaroundGap_running hr hc]
  refine ⟨fun hl => ?_, fun hl => ?_, fun t ht => ⟨fun hle => ?_, fun hlt => ?_⟩, fun ht => ?_⟩
  · exact congrArg _ (if_pos hl)
  · exact congrArg _ (if_neg (by simp [hl]))
  · exact congrArg _ (if_pos ((idleFor_of_counting _ ht).mpr hle))
  · exact congrArg _ (if_neg (mt (idleFor_of_counting _ ht).mp (Nat.not_le.mpr hlt)))
  · exact congrArg _ (if_neg (not_idleFor_of_stopped _ ht))

/-- Settles O27: the edge by whether the line is idle, the confirmation by whether its sample has come and by the
engine's window. -/
theorem startBitSearchAndConfirmation : Obligations.StartBitSearchAndConfirmation := by
  refine ⟨fun s hr hc => ?_, fun s hr hc => ⟨fun t he ha ht => ?_, fun low h => ?_⟩⟩
  · rw [exec_startBitEdge_running hr hc]
    refine ⟨fun he hl ha => ?_, fun a he hl ha => ⟨fun hle => ?_, fun hlt => ?_⟩, fun h => ?_⟩
    · exact congrArg _ (fallingEdge_of_seen ((edgeSeen_iff s).mpr ⟨he, hl, by simp [ha]⟩))
    · exact congrArg _ (fallingEdge_of_seen ((edgeSeen_iff s).mpr ⟨he, hl, by simpa [ha] using hle⟩))
    · refine congrArg _ (fallingEdge_of_not_seen fun hs => ?_)
      obtain ⟨-, -, hsampled⟩ := (edgeSeen_iff s).mp hs
      exact Nat.not_le.mpr hlt (hsampled a ha)
    · refine congrArg _ (fallingEdge_of_not_seen fun hs => ?_)
      obtain ⟨he, hl, -⟩ := (edgeSeen_iff s).mp hs
      simp [he, hl] at h
  · rw [exec_startBitConfirmation_running hr hc, exec_startBitConfirmation_running hr hc,
      confirmStartBit_at_sample _ he ha ht, confirmStartBit_at_sample _ he ha ht]
    exact ⟨rfl, fun e w hen hp hw => congrArg _ (beginReply_in_window hen hp hw),
      fun hlate => congrArg _ (beginReply_outside_window hlate)⟩
  · rw [exec_startBitConfirmation_running hr hc]
    refine congrArg _ (confirmStartBit_of_no_sample low fun t he ha => ?_)
    rcases h with hno | hasm | ⟨t', he', hlt⟩
    · exact absurd (he.symm.trans hno) (Option.some_ne_none t)
    · exact absurd ha hasm
    · obtain rfl : t = t' := Option.some.inj (he.symm.trans he')
      exact hlt

/-- Settles O29: the byte reaches the receiver at its end, and the engine that waits takes nothing. -/
theorem byteOutsideAReply : Obligations.ByteOutsideAReply := by
  intro v stopHigh s hr hc
  rw [exec_byteReceived_running hr hc]
  refine ⟨fun a ha hend hwait => ?_, fun h => ?_⟩
  · rw [receiveByte_at_end v stopHigh ha hend]
    exact congrArg _ (engineTakes_of_waiting v stopHigh _ hwait)
  · refine congrArg _ (receiveByte_before_end v stopHigh fun a ha => ?_)
    rcases h with hno | ⟨a', ha', hlt⟩
    · exact absurd (ha.symm.trans hno) (Option.some_ne_none a)
    · obtain rfl : a = a' := Option.some.inj (ha.symm.trans ha')
      exact hlt

/-- Settles O33: by whether the gap has reached its limit and whether the line has been quiet. -/
theorem replyCutOff : Obligations.ReplyCutOff := by
  intro s e began bytes hr hc he hp gapLimit due quiet
  have due_iff : (bytes ≠ [] ∧ s.gapOpen = true ∧ s.gapLimit ≤ s.clock) ↔ due := by
    simp only [due, gapOpen_iff, and_assoc]
    rfl
  have quiet_iff : s.idleFor quietBytes = true ↔ quiet := idleFor_iff s 2
  rw [exec_replyCutOff_running hr hc, replyIsCutOff_of_receiving he hp]
  simp only [due_iff, quiet_iff]
  refine ⟨fun hd hq => ?_, fun hd hq => ?_, fun hd => ?_⟩
  · rw [if_pos hd, if_pos hq, ← counterAt_clock]
    rfl
  · rw [if_pos hd, if_neg hq]
    rfl
  · rw [if_neg hd]

/-- Settles O32: each limit by the engine's phase and by whether its instant has come. -/
theorem limitsThatEndAnExchange : Obligations.LimitsThatEndAnExchange := by
  intro s e hr hc he report
  refine ⟨fun k hp => ?_, fun w hp => ?_, fun began bytes d hp => ?_⟩
  · intro limit byteDue
    have due_iff : s.byteDueBy (s.echoLimitAt e k) = false ↔ ¬byteDue := by
      rw [← Bool.not_eq_true, byteDueBy_iff]
      rfl
    rw [exec_echoLimit_running hr hc, echoLimitPasses_of_transmitting he hp]
    simp only [due_iff]
    refine ⟨fun hle hdue hk => ?_, fun hle hdue hk => ?_, fun h => ?_⟩
    · rw [if_pos ⟨hle, hdue⟩, stopFrame_eq, if_neg hk]
      rfl
    · rw [if_pos ⟨hle, hdue⟩, stopFrame_eq, if_pos hk]
      cases hi : s.receiver.idleSince with
      | none => rw [restartCount_of_stopped _ hi]; rfl
      | some idle => rw [restartCount_of_idle _ hi]; rfl
    · rw [if_neg fun ⟨hle, hdue⟩ => h.elim (Nat.not_lt.mpr hle) hdue]
  · rw [exec_responseWindowExpiry_running hr hc, windowExpires_of_awaiting he hp]
    simp only [edgeHolds_eq_false_iff]
    refine ⟨fun hle hedge => ?_, fun h => ?_⟩
    · rw [if_pos ⟨hle, hedge⟩]
      cases hi : s.receiver.idleSince with
      | none => rw [restartCount_of_stopped _ hi]; rfl
      | some idle => rw [restartCount_of_idle _ hi]; rfl
    · refine congrArg _ (if_neg fun ⟨hle, hedge⟩ => ?_)
      rcases h with hlt | ⟨t, ht, htw⟩
      · exact Nat.not_le.mpr hlt hle
      · exact Nat.not_le.mpr (hedge t ht) htw
  · rw [exec_quietCount_running hr hc, quietCountReached_of_quietWait he hp,
      exec_quietWaitDeadline_running hr hc, quietDeadlinePasses_of_quietWait he hp]
    refine ⟨fun t ht => ⟨fun hle => ?_, fun hlt => ?_⟩, fun ht => ?_, fun hle => ?_, fun hlt => ?_⟩
    · exact congrArg _ (if_pos ((idleFor_of_counting _ ht).mpr hle))
    · exact congrArg _ (if_neg (mt (idleFor_of_counting _ ht).mp (Nat.not_le.mpr hlt)))
    · exact congrArg _ (if_neg (not_idleFor_of_stopped _ ht))
    · rw [if_pos hle]
      rfl
    · rw [if_neg (Nat.not_le.mpr hlt)]

end Sys2Proof.Machine
end

section
/-! SUPPORT. Frames: the check as a calculation bit by bit, the bytes of the frames the part sends, and the judgement of
a reply framed as the manual asks. -/

namespace Sys2Proof.Machine

/-! ### Words of two bytes -/

theorem getLsbD_bytes (high low : Byte) (i : Nat) :
    BitVec.getLsbD (w := 16) (high ++ low) i = if i < 8 then low.getLsbD i else high.getLsbD (i - 8) :=
  BitVec.getLsbD_append

theorem getMsbD_bytes (high low : Byte) {k : Nat} (h : k < 8) :
    BitVec.getMsbD (w := 16) (high ++ low) k = high.getLsbD (7 - k) := by
  rw [BitVec.getMsbD_eq_getLsbD, getLsbD_bytes, if_neg (by omega)]
  simp [show k < 16 by omega, show 16 - 1 - k - 8 = 7 - k by omega]

/-- Eight places to the left take the high byte out and bring the low byte into its place. -/
theorem bytes_shiftLeft (high low : Byte) : (high ++ low : BitVec 16) <<< 8 = low ++ 0#8 := by
  refine BitVec.eq_of_getLsbD_eq fun i hi => ?_
  rw [BitVec.getLsbD_shiftLeft, getLsbD_bytes, getLsbD_bytes]
  by_cases h : i < 8
  · simp [h]
  · simp [h, hi, show i - 8 < 8 by omega]

/-- The sum of a word and its own high byte keeps the low byte alone. -/
theorem xor_high_byte (w : BitVec 16) : w ^^^ (w.extractLsb' 8 8 ++ 0#8) = 0#8 ++ w.extractLsb' 0 8 := by
  refine BitVec.eq_of_getLsbD_eq fun i hi => ?_
  rw [BitVec.getLsbD_xor, getLsbD_bytes, getLsbD_bytes]
  by_cases h : i < 8
  · simp [h]
  · simp [h, show i - 8 < 8 by omega, show 8 + (i - 8) = i by omega]

/-! ### The check -/

/-- R8: one bit enters the check: the check moves one place, and the generator is added where the bit that leaves it
differs from the bit that enters. -/
def crcEnter (crc : BitVec 16) (bit : Bool) : BitVec 16 :=
  if crc.msb = bit then crc <<< 1 else (crc <<< 1) ^^^ 0x1021

/-- A word added to the check beforehand: its first bit enters, and its rest stays to be added. -/
theorem crcBit_xor (crc w : BitVec 16) : crcBit (crc ^^^ w) = crcEnter crc w.msb ^^^ (w <<< 1) := by
  unfold crcBit crcEnter
  rw [BitVec.msb_xor, BitVec.shiftLeft_xor_distrib]
  cases crc.msb <;> cases w.msb <;> simp [BitVec.xor_assoc, BitVec.xor_comm (w <<< 1)]

/-- The first `n` bits of a word added beforehand enter the check one by one. -/
theorem crcBits_xor (n : Nat) (crc w : BitVec 16) :
    crcBits n (crc ^^^ w) = ((List.range n).map w.getMsbD).foldl crcEnter crc ^^^ (w <<< n) := by
  induction n generalizing crc w with
  | zero => simp [crcBits]
  | succ n ih =>
    have later_bits : (List.range n).map (w <<< 1).getMsbD = (List.range n).map (w.getMsbD ∘ Nat.succ) := by
      simp [BitVec.getMsbD_shiftLeft, Function.comp_def]
    rw [crcBits, crcBit_xor, ih, List.range_succ_eq_map, List.map_cons, List.foldl_cons, List.map_map, later_bits,
      ← BitVec.shiftLeft_add, Nat.add_comm 1, BitVec.msb]

/-- R8: a byte enters the check bit 7 first. -/
theorem crcByte_eq_foldl (crc : BitVec 16) (b : Byte) :
    crcByte crc b = [7, 6, 5, 4, 3, 2, 1, 0].foldl (fun crc k => crcEnter crc (b.getLsbD k)) crc := by
  have bits : (List.range 8).map (b ++ 0#8 : BitVec 16).getMsbD = [7, 6, 5, 4, 3, 2, 1, 0].map b.getLsbD := by
    simp [List.range, List.range.loop, getMsbD_bytes]
  have rest : (b ++ 0#8 : BitVec 16) <<< 8 = 0#16 := bytes_shiftLeft b 0#8
  rw [crcByte, crcBits_xor, bits, rest, List.foldl_map, BitVec.xor_zero]

/-- Eight places to the left bring no bit of the low byte to the place where the generator is added. -/
theorem crcBits_low_byte (low : Byte) : crcBits 8 (0#8 ++ low) = low ++ 0#8 := by
  have bits : (List.range 8).map (0#8 ++ low : BitVec 16).getMsbD = List.replicate 8 false := by
    simp [List.range, List.range.loop, getMsbD_bytes, List.replicate]
  have zeros_enter : (List.replicate 8 false).foldl crcEnter 0#16 = 0#16 := by decide
  calc crcBits 8 (0#8 ++ low)
      = crcBits 8 (0#16 ^^^ (0#8 ++ low)) := by rw [BitVec.zero_xor]
    _ = low ++ 0#8 := by rw [crcBits_xor, bits, zeros_enter, bytes_shiftLeft, BitVec.zero_xor]

/-- The check's own high byte leaves the low byte alone in the check. -/
theorem crcByte_high (crc : BitVec 16) : crcByte crc (crc.extractLsb' 8 8) = crc.extractLsb' 0 8 ++ 0#8 := by
  rw [crcByte, xor_high_byte, crcBits_low_byte]

/-- A byte that stands alone in the check is taken out of it by itself. -/
theorem crcByte_low (b : Byte) : crcByte (b ++ 0#8) b = 0 := by
  simp [crcByte, crcBits, crcBit]

theorem crc16_append_checkBytes (body : List Byte) : crc16 (body ++ checkBytes (crc16 body)) = 0 := by
  have h : crc16 (body ++ checkBytes (crc16 body)) =
      crcByte (crcByte (crc16 body) ((crc16 body).extractLsb' 8 8)) ((crc16 body).extractLsb' 0 8) := by
    simp only [crc16, checkBytes, List.foldl_append, List.foldl_cons, List.foldl_nil]
  rw [h, crcByte_high, crcByte_low]

/-- Settles O34: the bits of a byte by the linearity of the check, the remainder by its two check bytes. -/
theorem checkCalculationAndRemainder : Obligations.CheckCalculationAndRemainder := by
  refine ⟨rfl, fun body b => ?_, fun crc => rfl, crc16_append_checkBytes⟩
  have h : crc16 (body ++ [b]) = crcByte (crc16 body) b := by simp [crc16]
  exact h.trans (crcByte_eq_foldl _ _)

/-! ### The bytes of a frame -/

theorem toNat_append_eq_add {m n : Nat} (x : BitVec m) (y : BitVec n) :
    (x ++ y).toNat = 2 ^ n * x.toNat + y.toNat := by
  rw [BitVec.toNat_append, Nat.shiftLeft_eq, Nat.mul_comm, Nat.two_pow_add_eq_or_of_lt y.isLt]

theorem addressByte_address (n : StationId) (k : BitVec 3) :
    addressByte (address n) k = BitVec.ofNat 8 (8 * (n.val + 1) + k.toNat) := by
  have hn := n.isLt
  have hk := k.isLt
  have ha : (address n).toNat = n.val + 1 := Nat.mod_eq_of_lt (by omega)
  refine BitVec.eq_of_toNat_eq ?_
  rw [addressByte, toNat_append_eq_add, ha, BitVec.toNat_ofNat]
  omega

theorem controlByte_eq (toggle : Bool) {len : Nat} (h : len < 64) :
    controlByte toggle len = BitVec.ofNat 8 ((if toggle then 128 else 0) + len) := by
  refine BitVec.eq_of_toNat_eq ?_
  rw [controlByte, toNat_append_eq_add, toNat_append_eq_add, BitVec.toNat_ofNat, BitVec.toNat_ofNat]
  cases toggle <;> simp <;> omega

/-- R5, R8: a frame is the lead byte, a body and the body's check. -/
def framed (body : List Byte) : List Byte := leadByte :: (body ++ checkBytes (crc16 body))

theorem frameOf_eq_framed (a : BitVec 5) (k : BitVec 3) (toggle : Bool) (code : Byte) (payload : List Byte) :
    frameOf a k toggle code payload =
      framed (addressByte a k :: controlByte toggle payload.length :: code :: payload) := rfl

theorem framed_length (body : List Byte) : (framed body).length = 3 + body.length := by
  simp [framed, checkBytes]
  omega

/-- R9, R10: the frames without toggle, code and payload. -/
theorem frameOf_address_empty (n : StationId) (k : BitVec 3) :
    frameOf (address n) k false 0 [] = framed [BitVec.ofNat 8 (8 * (n.val + 1) + k.toNat), 0, 0] := by
  have control : controlByte false 0 = 0 := by decide
  rw [frameOf_eq_framed, addressByte_address, List.length_nil, control]

/-- R10: the frame of a time mark, to the broadcast address with four bytes of payload. -/
theorem buildFrame_timeMark (s : State) :
    s.buildFrame .timeMark = framed (0x06 :: 0x04 :: 0x00 :: stampBigEndian s.time.counter) := by
  have head : addressByte 0 6 = 0x06 := by decide
  have control : controlByte false 4 = 0x04 := by decide
  rw [← head, ← control]
  rfl

/-- R9, R10: the frame of a request carries the toggle, the slot's code and the first bytes of its request. -/
theorem buildFrame_request (s : State) (i : SlotId) (k : SlotKind) (n : StationId) (toggle : Bool)
    (h : (s.slot i).reqLen ≤ 32) :
    s.buildFrame (.request i k n toggle) =
      framed (BitVec.ofNat 8 (8 * (n.val + 1) + k.frameKind.toNat) ::
        BitVec.ofNat 8 ((if toggle then 128 else 0) + (s.slot i).reqLen) :: (s.slot i).code ::
        (s.slot i).reqBytes.toList.take (s.slot i).reqLen) := by
  have payload_length : ((s.slot i).reqBytes.toList.take (s.slot i).reqLen).length = (s.slot i).reqLen := by
    simp [h]
  have control : controlByte toggle ((s.slot i).reqBytes.toList.take (s.slot i).reqLen).length =
      BitVec.ofNat 8 ((if toggle then 128 else 0) + (s.slot i).reqLen) := by
    rw [payload_length, controlByte_eq toggle (by omega)]
  rw [← addressByte_address, ← control]
  rfl

/-- Settles O35: the frames without payload, the time mark, and the requests of each kind. -/
theorem commandFrameBytes : Obligations.CommandFrameBytes := by
  intro s sent
  refine ⟨fun p n => ⟨frameOf_address_empty n 0, frameOf_address_empty n 1, frameOf_address_empty n 5⟩,
    buildFrame_timeMark s, fun i k n toggle hlen => ?_⟩
  intro kind len
  have kind_eq : k.frameKind.toNat = kind := by cases k <;> rfl
  rw [buildFrame_request s i k n toggle hlen, kind_eq, framed_length]
  exact ⟨rfl, by simp; omega⟩

/-! ### The fields of a reply -/

/-- R14: byte 2 of a reply. -/
def replyControl (toggle attention : Bool) (len : Nat) : Byte :=
  BitVec.ofBool toggle ++ BitVec.ofBool attention ++ BitVec.ofNat 6 len

theorem length_of_replyControl (toggle attention : Bool) {len : Nat} (h : len < 64) :
    ((replyControl toggle attention len).extractLsb' 0 6).toNat = len :=
  (congrArg BitVec.toNat BitVec.extractLsb'_append_eq_right).trans (Nat.mod_eq_of_lt h)

theorem toggle_of_replyControl (toggle attention : Bool) (len : Nat) :
    (replyControl toggle attention len).getLsbD 7 = toggle :=
  BitVec.getLsbD_append.trans (by cases toggle <;> cases attention <;> rfl)

theorem attention_of_replyControl (toggle attention : Bool) (len : Nat) :
    (replyControl toggle attention len).getLsbD 6 = attention :=
  BitVec.getLsbD_append.trans (by cases toggle <;> cases attention <;> rfl)

/-- R5, R12: no kind takes a payload of more than 32 bytes. -/
theorem length_le_of_lengthFits {k : ReplyKind} {len : Nat} (h : k.lengthFits len = true) : len ≤ 32 := by
  cases k with
  | data => exact of_decide_eq_true h
  | present | status | refuse => exact (of_decide_eq_true h : len = 1).le.trans (by decide)
  | ack | busy => exact (of_decide_eq_true h : len = 0).le.trans (by decide)

/-! ### The judgement, by the number of bytes received -/

theorem judge_lead (j : Job) : judge j [leadByte] = .incomplete := by simp [judge, byteAt]

theorem judge_two_bytes {j : Job} {b0 b1 : Byte} {k : ReplyKind} (ha : b1.extractLsb' 3 5 = j.address)
    (hk : ReplyKind.ofBits? (b1.extractLsb' 0 3) = some k) (hl : j.legalReply k = true) :
    judge j [b0, b1] = .incomplete := by
  simp [judge, Job.addressFits, Job.kindFits, replyKind?, byteAt, ha, hk, hl]

theorem judge_three_bytes {j : Job} {b0 b1 b2 : Byte} {k : ReplyKind}
    (hk : ReplyKind.ofBits? (b1.extractLsb' 0 3) = some k)
    (hlen : k.lengthFits (b2.extractLsb' 0 6).toNat = true) (ht : j.toggleFits [b0, b1, b2] = true) :
    judge j [b0, b1, b2] = .incomplete := by
  have hle := length_le_of_lengthFits hlen
  have fits : lengthFits [b0, b1, b2] = true := by
    simp only [lengthFits, replyLength, replyKind?, byteAt, List.getD_cons_succ, List.getD_cons_zero, hk, hlen,
      maxPayload, hle, decide_true, Bool.and_true]
  simp [judge, fits, ht]

theorem judge_before_end {j : Job} {bytes : List Byte} (h : 4 ≤ bytes.length)
    (hend : bytes.length < 6 + replyLength bytes) : judge j bytes = .incomplete := by
  unfold judge
  rw [if_neg (by omega), if_neg (by omega), if_neg (by omega), if_neg (by omega)]

theorem judge_at_end {j : Job} {bytes : List Byte} {k : ReplyKind} (h : bytes.length = 6 + replyLength bytes)
    (hk : replyKind? bytes = some k) (hcheck : checkFits bytes = true) :
    judge j bytes = .valid (replyOf k bytes) := by
  unfold judge
  rw [if_neg (by omega), if_neg (by omega), if_neg (by omega), if_pos h, if_pos hcheck, hk]

/-- R8: the check of a framed body whose length byte 2 gives is found to fit. -/
theorem checkFits_framed {body : List Byte} (h : body.length = 3 + replyLength (framed body)) :
    checkFits (framed body) = true := by
  have covered : ((framed body).drop 1).take (3 + replyLength (framed body)) = body := by
    rw [← h]
    exact List.take_left
  have high : byteAt (framed body) (4 + replyLength (framed body)) = (crc16 body).extractLsb' 8 8 := by
    rw [show 4 + replyLength (framed body) = body.length + 1 by omega]
    simp [byteAt, framed, checkBytes]
  have low : byteAt (framed body) (5 + replyLength (framed body)) = (crc16 body).extractLsb' 0 8 := by
    rw [show 5 + replyLength (framed body) = (body.length + 1) + 1 by omega]
    simp [byteAt, framed, checkBytes]
  simp only [checkFits, covered, high, low]
  simp [checkBytes]

/-! ### A reply framed as the manual asks -/

section
variable (a : BitVec 5) (kindBits : BitVec 3) (toggle attention : Bool) (code : Byte) (payload : List Byte)

/-- R5, R14: bytes 1 to 3+len of a reply. -/
def replyBody : List Byte :=
  (a ++ kindBits) :: replyControl toggle attention payload.length :: code :: payload

/-- R5, R14: a reply. -/
abbrev replyFrame : List Byte := framed (replyBody a kindBits toggle attention code payload)

variable {a kindBits toggle attention code payload}

theorem replyBody_length :
    (replyBody a kindBits toggle attention code payload).length = 3 + payload.length :=
  Nat.add_comm payload.length 3

theorem replyLength_take (hlen : payload.length < 64) (r : Nat) :
    replyLength ((replyFrame a kindBits toggle attention code payload).take (r + 3)) = payload.length :=
  length_of_replyControl toggle attention hlen

theorem replyLength_framed (hlen : payload.length < 64) :
    replyLength (replyFrame a kindBits toggle attention code payload) = payload.length :=
  length_of_replyControl toggle attention hlen

theorem replyKind?_framed :
    replyKind? (replyFrame a kindBits toggle attention code payload) = ReplyKind.ofBits? kindBits :=
  congrArg ReplyKind.ofBits? BitVec.extractLsb'_append_eq_right

/-- R36: the fields of the reply are those the station framed. -/
theorem replyOf_framed (k : ReplyKind) (hlen : payload.length < 64) :
    replyOf k (replyFrame a kindBits toggle attention code payload) =
      { kind := k, attention := attention, code := code, payload := payload } := by
  have attention_sent : (byteAt (replyFrame a kindBits toggle attention code payload) 2).getLsbD 6 = attention :=
    attention_of_replyControl toggle attention payload.length
  have payload_sent : ((replyFrame a kindBits toggle attention code payload).drop 4).take payload.length = payload :=
    List.take_left
  rw [replyOf, replyLength_framed hlen, attention_sent, payload_sent]
  rfl

/-- R30: the reply that a station frames as the manual asks. -/
theorem judge_reply_whole {j : Job} {k : ReplyKind} (hk : ReplyKind.ofBits? kindBits = some k)
    (hfits : k.lengthFits payload.length = true) :
    judge j (replyFrame a kindBits toggle attention code payload) =
      .valid { kind := k, attention := attention, code := code, payload := payload } := by
  have hlen : payload.length < 64 := Nat.lt_of_le_of_lt (length_le_of_lengthFits hfits) (by decide)
  have body_length : (replyBody a kindBits toggle attention code payload).length =
      3 + replyLength (replyFrame a kindBits toggle attention code payload) := by
    rw [replyLength_framed hlen]
    exact replyBody_length
  rw [judge_at_end (by rw [framed_length, body_length]; omega) (replyKind?_framed.trans hk)
    (checkFits_framed body_length), replyOf_framed k hlen]

/-- R30, R31: none of its beginnings is judged bad or complete. -/
theorem judge_reply_beginning {j : Job} {k : ReplyKind} {m : Nat} (hk : ReplyKind.ofBits? kindBits = some k)
    (hlegal : j.legalReply k = true) (hfits : k.lengthFits payload.length = true)
    (htoggle : ∀ b0 b1 : Byte, j.toggleFits [b0, b1, replyControl toggle attention payload.length] = true)
    (hm : 1 ≤ m) (hlt : m < (replyFrame j.address kindBits toggle attention code payload).length) :
    judge j ((replyFrame j.address kindBits toggle attention code payload).take m) = .incomplete := by
  have hlen : payload.length < 64 := Nat.lt_of_le_of_lt (length_le_of_lengthFits hfits) (by decide)
  have kind_field : ReplyKind.ofBits? (BitVec.extractLsb' 0 3 (j.address ++ kindBits : Byte)) = some k :=
    (congrArg ReplyKind.ofBits? BitVec.extractLsb'_append_eq_right).trans hk
  match m with
  | 1 => exact judge_lead j
  | 2 => exact judge_two_bytes BitVec.extractLsb'_append_eq_left kind_field hlegal
  | 3 => exact judge_three_bytes kind_field (by rwa [length_of_replyControl _ _ hlen]) (htoggle _ _)
  | r + 4 =>
    have taken : ((replyFrame j.address kindBits toggle attention code payload).take (r + 4)).length = r + 4 :=
      List.length_take_of_le (Nat.le_of_lt hlt)
    have whole : (replyFrame j.address kindBits toggle attention code payload).length = 6 + payload.length := by
      rw [framed_length, replyBody_length]
      omega
    exact judge_before_end (by omega) (by rw [taken, replyLength_take hlen]; omega)

end

/-- Settles O37: the whole by its check, the beginnings by their lengths. -/
theorem legalReplyIsJudgedValid : Obligations.LegalReplyIsJudgedValid := by
  intro j kindBits k toggle attention code payload hk hlegal hfits htoggle
  have toggle_fits (b0 b1 : Byte) : j.toggleFits [b0, b1, replyControl toggle attention payload.length] = true := by
    cases j with
    | request i kind n sent =>
      exact decide_eq_true ((toggle_of_replyControl toggle attention payload.length).trans htoggle)
    | probe p n => rfl
    | poll n => rfl
    | attnAck n => rfl
    | timeMark => rfl
  exact ⟨judge_reply_whole hk hfits, fun m hm hlt => judge_reply_beginning hk hlegal hfits toggle_fits hm hlt⟩

end Sys2Proof.Machine
end

section
/-! SUPPORT. Device reset, and the scheduler's choice with the pins through the frame it starts. -/

namespace Sys2Proof.Machine

/-! ### The pins through a frame -/

theorem bitTime_pos (s : State) : 0 < s.bitTime := by
  unfold State.bitTime TimingConfig.bitTime
  split_ifs <;> decide

theorem txen_iff {s : State} {e : Exchange} (he : s.engine = some e) :
    s.txen = true ↔ s.clock < e.startedAt + e.frame.length * (10 * s.bitTime) := by
  rw [State.txen, he]
  exact decide_eq_true_iff

theorem pins_without_exchange {s : State} (he : s.engine = none) : s.txen = false ∧ s.txd = true := by
  simp [State.txen, State.txd, he]

theorem txd_at_rest {s : State} (h : s.txen = false) : s.txd = true := by
  unfold State.txd
  split
  · rw [if_neg (by rw [h]; decide)]
  · rfl

/-- R2: the levels of the ten bit times of a byte. -/
theorem lineLevel_eq (b : Byte) {bit : Nat} (h : bit < 10) :
    lineLevel b bit = (if bit = 0 then false else if bit = 9 then true else b.getLsbD (bit - 1)) := by
  by_cases h0 : bit = 0
  · simp [lineLevel, h0]
  · by_cases h9 : bit = 9
    · simp [lineLevel, h9]
    · simp [lineLevel, h0, h9, show bit ≤ 8 by omega]

/-- R1, R2: TXD while bit `bit` of byte `byte` is on the line. -/
theorem txd_at_bit {s : State} {e : Exchange} {byte bit : Nat} (he : s.engine = some e) (hen : s.txen = true)
    (hbit : bit < 10) (hfrom : e.startedAt + (10 * byte + bit) * s.bitTime ≤ s.clock)
    (hto : s.clock < e.startedAt + (10 * byte + bit + 1) * s.bitTime) :
    s.txd = lineLevel (byteAt e.frame byte) bit := by
  have bits_passed : (s.clock - e.startedAt) / s.bitTime = 10 * byte + bit :=
    Nat.div_eq_of_lt_le (by omega) (by omega)
  have byte_now : (10 * byte + bit) / 10 = byte := by omega
  have bit_now : (10 * byte + bit) % 10 = bit := by omega
  simp only [State.txd, he, hen, if_true, bits_passed, byte_now, bit_now]

/-- R11: every bit of the frame lies before its end. -/
theorem bit_before_frame_end {n byte bit time : Nat} (hbyte : byte < n) (hbit : bit < 10) :
    (10 * byte + bit + 1) * time ≤ n * (10 * time) := by
  rw [← Nat.mul_assoc, Nat.mul_comm n 10]
  exact Nat.mul_le_mul_right _ (by omega)

/-! ### The choice -/

theorem schedulerChooses_job {s : State} {j : Job} (he : s.engine = none) (hg : s.receiver.gapPassed = true)
    (hj : s.availableJob? = some j) : schedulerChooses s = startExchange j s := by
  simp [schedulerChooses, State.lineFree, he, hg, hj]

theorem schedulerChooses_nothing {s : State}
    (h : s.engine ≠ none ∨ s.receiver.gapPassed = false ∨ s.availableJob? = none) : schedulerChooses s = s := by
  unfold schedulerChooses State.lineFree
  rcases h with he | hg | hj
  · simp [he]
  · simp [hg]
  · simp [hj]

/-- R1, R11: the lead byte that an exchange starts with takes TXEN high. -/
theorem startExchange_txen (j : Job) (s : State) : (startExchange j s).txen = true := by
  have started : (startExchange j s).engine =
      some { job := j, frame := s.buildFrame j, startedAt := s.clock, phase := .transmitting 0 } := rfl
  have clock_kept : (startExchange j s).clock = s.clock := by cases j <;> rfl
  have frame_nonempty : 0 < (s.buildFrame j).length := Nat.succ_pos _
  rw [txen_iff started, clock_kept]
  have := bitTime_pos (startExchange j s)
  exact Nat.lt_add_of_pos_right (Nat.mul_pos frame_nonempty (by omega))

/-- Settles O38: the pins by the bit time the clock stands in, the choice by whether the line is free and a job is
available. -/
theorem choiceStartsExchangeAndDrivesTheLine : Obligations.ChoiceStartsExchangeAndDrivesTheLine := by
  refine ⟨fun s e he hstart => ?_, fun s he => pins_without_exchange he, fun s hr hc => ?_⟩
  · intro ends
    refine ⟨(txen_iff he).mpr, fun hend => ?_, fun byte bit hbyte hbit hfrom hto => ?_⟩
    · have low : s.txen = false := by
        rw [← Bool.not_eq_true, txen_iff he]
        exact Nat.not_lt.mpr hend
      exact ⟨low, txd_at_rest low⟩
    · have high : s.txen = true :=
        (txen_iff he).mpr (hto.trans_le (Nat.add_le_add_left (bit_before_frame_end hbyte hbit) _))
      exact ⟨high, (txd_at_bit he high hbit hfrom hto).trans (lineLevel_eq _ hbit)⟩
  · rw [exec_schedulerChoice_running hr hc]
    refine ⟨fun he hg j hj => ?_, fun h => congrArg _ (schedulerChooses_nothing h)⟩
    rw [schedulerChooses_job he hg hj]
    refine ⟨startExchange j s, rfl, startExchange_txen j s, ?_⟩
    cases j with
    | probe p n => cases p <;> rfl
    | poll n => rfl
    | request i k n toggle => rfl
    | attnAck n => rfl
    | timeMark => rfl

/-! ### Device reset -/

theorem reset_station (n : StationId) : State.reset.station n = Station.reset := Vector.getElem_replicate _

theorem reset_slot (i : SlotId) : State.reset.slot i = Slot.reset := Vector.getElem_replicate _

theorem reset_filter (f : FilterId) : State.reset.notes.filters[f] = FilterEntry.reset := Vector.getElem_replicate _

theorem reset_slotdone : State.reset.slotdone = 0 := by
  have none_finished (i : SlotId) : State.reset.slotdoneBit i = false := by
    rw [State.slotdoneBit, reset_slot]
    rfl
  simp [State.slotdone, none_finished]

theorem reset_causes : State.reset.causes = 0 := by
  have no_slot : State.reset.slotCause = false := by simp [State.slotCause, reset_slotdone]
  rw [State.causes, no_slot]
  rfl

/-- R184: no cause is present and none is enabled. -/
theorem reset_interrupts : State.reset.istat = 0 ∧ State.reset.intAsserted = false := by
  rw [State.istat, State.intAsserted, reset_causes]
  exact ⟨rfl, rfl⟩

/-- Section 10.2: every register after reset shows its owning block's reset value. -/
theorem reset_reads :
    (List.range 64).map (fun n => readRegister (BitVec.ofNat 6 n) State.reset) =
      [0, 0, 0, 0, 0, 0, 1, 50] ++ [4, 2, 3, 10, 20, 8, 16, 0] ++ [0, 1, 0, 0, 0, 0, 0, 0] ++
      [0, 0, 0, 0, 0, 0, 0, 0] ++ [0, 0, 0, 0, 0, 0, 0, 0] ++ [0, 0, 0, 0, 0, 0, 0, 0] ++
      [0, 1, 0, 0, 0, 0, 0, 0] ++ [0, 0, 0, 0, 1, 31, 0, 255] := by
  decide +kernel

/-- Settles O5: device reset puts State.reset's blocks into any state, and the tables, the flags and the reads are
those of State.reset. -/
theorem deviceResetValues : Obligations.DeviceResetValues := by
  refine ⟨fun s => ⟨deviceReset s, rfl, ?_⟩, reset_reads⟩
  obtain ⟨txen_low, txd_high⟩ := pins_without_exchange (s := deviceReset s) rfl
  obtain ⟨istat_zero, int_released⟩ := reset_interrupts
  exact ⟨rfl, rfl, rfl, rfl,
    rfl, rfl, rfl, rfl, rfl, rfl, rfl, rfl,
    rfl, rfl, rfl, rfl, rfl,
    rfl,
    rfl, txen_low, txd_high,
    rfl, rfl, rfl,
    reset_station, reset_slot, rfl, reset_slotdone,
    reset_filter, rfl, rfl, rfl, rfl, rfl,
    rfl, rfl, rfl, rfl,
    istat_zero, int_released⟩

end Sys2Proof.Machine
end

section
/-! SUPPORT. The bytes of an exchange: the byte read back while the frame is sent, the checks at the bytes of a reply,
and the byte taken into a reply. -/

namespace Sys2Proof.Machine

/-! ### A byte at its end, phase by phase -/

theorem receiveByte_of_transmitting {s : State} {a : Assembly} {e : Exchange} {k : Nat} (v : Byte) (stopHigh : Bool)
    (ha : s.receiver.assembling = some a) (h : a.byteEnd ≤ s.clock) (he : s.engine = some e)
    (hp : e.phase = .transmitting k) :
    receiveByte v stopHigh s =
      compareEcho e k v a.byteEnd (s.setReceiver (s.receiver.deliver a.byteEnd stopHigh)) := by
  rw [receiveByte_at_end v stopHigh ha h]
  simp [engineTakes, he, hp]

theorem receiveByte_of_receiving {s : State} {a : Assembly} {e : Exchange} {began : Nat} {bytes : List Byte} (v : Byte)
    (stopHigh : Bool) (ha : s.receiver.assembling = some a) (h : a.byteEnd ≤ s.clock) (he : s.engine = some e)
    (hp : e.phase = .receiving began bytes) :
    receiveByte v stopHigh s =
      if bytes = [] ∧ v = 0 ∧ stopHigh = false then
        resumeWait e (s.setReceiver (s.receiver.deliver a.byteEnd stopHigh))
      else
        judgeByte e began (bytes ++ [v]) a.byteEnd (s.setReceiver (s.receiver.deliver a.byteEnd stopHigh)) := by
  rw [receiveByte_at_end v stopHigh ha h]
  simp [engineTakes, he, hp]

/-! ### The byte read back -/

section
variable {e : Exchange} {k byteEnd : Nat} {v : Byte} {s : State}

theorem compareEcho_goes_on (hm : byteAt e.frame k = v ∧ byteEnd ≤ s.echoLimitAt e k)
    (hmore : k + 1 < e.frame.length) :
    compareEcho e k v byteEnd s = s.setEngine (some { e with phase := .transmitting (k + 1) }) := by
  rw [compareEcho, if_pos hm, if_pos hmore]

theorem compareEcho_opens_window (hm : byteAt e.frame k = v ∧ byteEnd ≤ s.echoLimitAt e k)
    (hlast : e.frame.length ≤ k + 1) (hj : e.job ≠ .timeMark) :
    compareEcho e k v byteEnd s = s.setEngine (some { e with phase := .awaitingReply (s.windowExpiry e) }) := by
  rw [compareEcho, if_pos hm, if_neg (Nat.not_lt.mpr hlast), if_neg hj]

theorem compareEcho_sends_mark (hm : byteAt e.frame k = v ∧ byteEnd ≤ s.echoLimitAt e k)
    (hlast : e.frame.length ≤ k + 1) (hj : e.job = .timeMark) :
    compareEcho e k v byteEnd s = endExchange e true .sent none byteEnd s := by
  rw [compareEcho, if_pos hm, if_neg (Nat.not_lt.mpr hlast), if_pos hj]

theorem compareEcho_of_mismatch (hm : ¬(byteAt e.frame k = v ∧ byteEnd ≤ s.echoLimitAt e k)) :
    compareEcho e k v byteEnd s = endExchange e false .lineError none byteEnd s := by
  rw [compareEcho, if_neg hm]

end

/-- Settles O30: the byte reaches the receiver at its end, and the comparison by its result, by whether the frame is
whole and by whether the exchange is a time mark. -/
theorem echoedByte : Obligations.EchoedByte := by
  intro v stopHigh s a e k hr hc ha hend he hp
  rw [exec_byteReceived_running hr hc, receiveByte_of_transmitting v stopHigh ha hend he hp]
  intro byteEnd heard report matched
  refine ⟨fun hm hmore => ?_, fun hm hlast hj => ?_, fun hm hlast hj => ?_, fun hm => ?_⟩
  · exact congrArg _ (compareEcho_goes_on hm hmore)
  · exact congrArg _ (compareEcho_opens_window hm hlast hj)
  · exact congrArg _ (compareEcho_sends_mark hm hlast hj)
  · exact congrArg _ (compareEcho_of_mismatch hm)

/-! ### The judgement at bytes 0, 1 and 2 -/

theorem judge_one_byte (j : Job) (b0 : Byte) :
    judge j [b0] = if b0 = leadByte then .incomplete else .bad := by
  simp [judge, byteAt]

theorem judge_two_bytes_eq (j : Job) (b0 b1 : Byte) :
    judge j [b0, b1] =
      if j.addressFits [b0, b1] = true ∧ j.kindFits [b0, b1] = true then .incomplete else .bad := by
  simp [judge]

theorem judge_three_bytes_eq (j : Job) (b0 b1 b2 : Byte) :
    judge j [b0, b1, b2] =
      if lengthFits [b0, b1, b2] = true ∧ j.toggleFits [b0, b1, b2] = true then .incomplete else .bad := by
  simp [judge]

/-- R12: the number of a reply kind on the line. -/
def ReplyKind.number : ReplyKind → Nat
  | .present => 0
  | .status => 1
  | .data => 2
  | .ack => 3
  | .busy => 4
  | .refuse => 5

theorem ofBits?_eq_some_iff (bits : BitVec 3) (k : ReplyKind) :
    ReplyKind.ofBits? bits = some k ↔ bits.toNat = k.number := by
  revert bits
  cases k <;> decide

theorem ReplyKind.exists_iff {p : ReplyKind → Prop} :
    (∃ k, p k) ↔ p .present ∨ p .status ∨ p .data ∨ p .ack ∨ p .busy ∨ p .refuse := by
  refine ⟨fun ⟨k, hk⟩ => ?_, fun h => ?_⟩
  · cases k <;> simp [hk]
  · rcases h with h | h | h | h | h | h <;> exact ⟨_, h⟩

theorem replyKind?_eq_some_iff (bytes : List Byte) (k : ReplyKind) :
    replyKind? bytes = some k ↔ ((byteAt bytes 1).extractLsb' 0 3).toNat = k.number := ofBits?_eq_some_iff _ _

theorem kindFits_iff (j : Job) (bytes : List Byte) :
    j.kindFits bytes = true ↔
      ∃ k : ReplyKind, ((byteAt bytes 1).extractLsb' 0 3).toNat = k.number ∧ j.legalReply k = true := by
  simp only [← replyKind?_eq_some_iff, Job.kindFits]
  cases replyKind? bytes <;> simp

theorem lengthFits_iff (bytes : List Byte) :
    lengthFits bytes = true ↔
      ∃ k : ReplyKind, ((byteAt bytes 1).extractLsb' 0 3).toNat = k.number ∧
        k.lengthFits (replyLength bytes) = true := by
  simp only [← replyKind?_eq_some_iff, lengthFits, Bool.and_eq_true, decide_eq_true_eq]
  cases replyKind? bytes with
  | none => simp
  | some k => exact (and_iff_right_of_imp length_le_of_lengthFits).trans (by simp)

/-- R12, R31: the lengths of the kinds, by the numbers on the line. -/
theorem lengthFits_three_bytes_iff (b0 b1 b2 : Byte) :
    lengthFits [b0, b1, b2] = true ↔
      let kind := (b1.extractLsb' 0 3).toNat
      let len := (b2.extractLsb' 0 6).toNat
      ((kind = 0 ∨ kind = 1 ∨ kind = 5) ∧ len = 1) ∨ ((kind = 3 ∨ kind = 4) ∧ len = 0) ∨
        (kind = 2 ∧ len ≤ 32) := by
  rw [lengthFits_iff, ReplyKind.exists_iff]
  have kind_byte : byteAt [b0, b1, b2] 1 = b1 := rfl
  have length_byte : replyLength [b0, b1, b2] = (b2.extractLsb' 0 6).toNat := rfl
  simp only [ReplyKind.lengthFits, ReplyKind.number, maxPayload, decide_eq_true_eq, kind_byte, length_byte]
  omega

/-! ### The check of a reply -/

/-- R8: the check of a reply whose body has the length that byte 2 gives. -/
theorem checkFits_iff {b0 high low : Byte} {body : List Byte}
    (h : body.length = 3 + replyLength (b0 :: (body ++ [high, low]))) :
    checkFits (b0 :: (body ++ [high, low])) = true ↔ checkBytes (crc16 body) = [high, low] := by
  unfold checkFits
  generalize replyLength (b0 :: (body ++ [high, low])) = len at h
  have covered : ((b0 :: (body ++ [high, low])).drop 1).take (3 + len) = body := by
    rw [← h]
    exact List.take_left
  have high_byte : byteAt (b0 :: (body ++ [high, low])) (4 + len) = high := by
    rw [show 4 + len = body.length + 1 by omega]
    simp [byteAt]
  have low_byte : byteAt (b0 :: (body ++ [high, low])) (5 + len) = low := by
    rw [show 5 + len = (body.length + 1) + 1 by omega]
    simp [byteAt]
  simp only [covered, high_byte, low_byte, decide_eq_true_eq]

theorem judge_wrong_check {j : Job} {bytes : List Byte} (h : bytes.length = 6 + replyLength bytes)
    (hcheck : ¬checkFits bytes = true) : judge j bytes = .bad := by
  unfold judge
  rw [if_neg (by omega), if_neg (by omega), if_neg (by omega), if_pos h, if_neg hcheck]

/-- R5: byte 2 of a reply is byte 1 of its body. -/
theorem replyLength_cons (b0 : Byte) (body : List Byte) :
    replyLength (b0 :: body) = ((body.getD 1 0).extractLsb' 0 6).toNat := rfl

/-- Settles O36: the first three bytes by their checks, the later ones by the length that byte 2 gives. -/
theorem replyHeadAndCheckBytes : Obligations.ReplyHeadAndCheckBytes := by
  refine ⟨fun j b0 b1 b2 => ?_, fun j b0 body => ⟨fun hmin hlt => ?_, fun hwhole high low hne => ?_⟩⟩
  · intro address kind len legal lengthOk toggleOk
    have address_iff : j.addressFits [b0, b1] = true ↔ address = j.address := decide_eq_true_iff
    have legal_iff : j.kindFits [b0, b1] = true ↔ legal := by
      rw [kindFits_iff, ReplyKind.exists_iff]
      cases j with
      | request i k n sent =>
        cases k <;> simp [Job.legalReply, SlotKind.legalReply, ReplyKind.number, legal, kind, byteAt]
      | probe _ _ | poll _ | attnAck _ | timeMark => simp [Job.legalReply, ReplyKind.number, legal, kind, byteAt]
    have length_iff : lengthFits [b0, b1, b2] = true ↔ lengthOk := lengthFits_three_bytes_iff b0 b1 b2
    have toggle_iff : j.toggleFits [b0, b1, b2] = true ↔ toggleOk := by
      cases j with
      | request i k n sent => exact decide_eq_true_iff
      | probe _ _ | poll _ | attnAck _ | timeMark => exact iff_of_true rfl trivial
    have head_iff := address_iff.and legal_iff
    have control_iff := length_iff.and toggle_iff
    rw [judge_one_byte, judge_two_bytes_eq, judge_three_bytes_eq]
    exact ⟨fun h => if_pos h, fun h => if_neg h, fun h => if_pos (head_iff.mpr h), fun h => if_neg (mt head_iff.mp h),
      fun h => if_pos (control_iff.mpr h), fun h => if_neg (mt control_iff.mp h)⟩
  · refine judge_before_end (Nat.succ_le_succ hmin) ?_
    rw [replyLength_cons, List.length_cons]
    omega
  · have body_length : body.length = 3 + replyLength (b0 :: (body ++ [high, low])) := by
      rw [replyLength_cons, List.getD_append _ _ _ _ (by omega)]
      exact hwhole
    refine judge_wrong_check ?_ fun hfits => hne ((checkFits_iff body_length).mp hfits).symm
    simp only [List.length_cons, List.length_append, List.length_nil, body_length]
    omega

/-! ### The byte of a reply -/

section
variable {e : Exchange} {began byteEnd : Nat} {bytes : List Byte} {s : State}

theorem judgeByte_goes_on (h : judge e.job bytes = .incomplete) :
    judgeByte e began bytes byteEnd s = s.setEngine (some { e with phase := .receiving began bytes }) := by
  rw [judgeByte, h]

theorem judgeByte_bad (h : judge e.job bytes = .bad) :
    judgeByte e began bytes byteEnd s =
      s.setEngine (some { e with phase := .quietWait began bytes (s.quietDeadline began byteEnd) }) := by
  rw [judgeByte, h, findBad_eq]

theorem judgeByte_valid {p : Reply} (h : judge e.job bytes = .valid p) :
    judgeByte e began bytes byteEnd s = endExchange e true p.kind.outcome (some p) byteEnd s := by
  rw [judgeByte, h]

end

theorem ReplyKind.outcome_eq (k : ReplyKind) :
    k.outcome = if k = .busy then .busy else if k = .refuse then .refused else .good := by
  cases k <;> rfl

/-- R29, R31: a first byte of value 0 is no lead byte. -/
theorem judge_of_low_line (j : Job) : judge j ([] ++ [0]) = .bad := by
  rw [List.nil_append, judge_one_byte]
  exact if_neg (by decide)

/-- Settles O31: the byte reaches the receiver at its end; it shows a low line or is judged, and a byte that shows a low
line would be judged bad. -/
theorem replyByte : Obligations.ReplyByte := by
  intro v stopHigh s a e began bytes hr hc ha hend he hp
  rw [exec_byteReceived_running hr hc, receiveByte_of_receiving v stopHigh ha hend he hp]
  intro byteEnd heard stayedLow
  have bad_of_stayedLow (h : stayedLow) : judge e.job (bytes ++ [v]) = .bad := by
    obtain ⟨rfl, rfl, -⟩ := h
    exact judge_of_low_line e.job
  refine ⟨fun h => ?_, fun h => ?_, fun hn h => ?_, fun p h => ?_⟩
  · rw [if_pos h]
    rfl
  · rw [if_neg fun hl => by simp [bad_of_stayedLow hl] at h, judgeByte_goes_on h]
    rfl
  · rw [if_neg hn, judgeByte_bad h]
    rfl
  · rw [if_neg fun hl => by simp [bad_of_stayedLow hl] at h, judgeByte_valid h, ReplyKind.outcome_eq]
    rfl

end Sys2Proof.Machine
end

section
/-! SUPPORT. No row but the scheduler's choice begins an exchange: the host's accesses leave the engine as it is, and
the events of the line and of the timers find it empty. -/

namespace Sys2Proof.Machine

/-! ### The commands leave the engine -/

@[simp] theorem startRound_engine (s : State) : (startRound s).engine = s.engine := rfl

@[simp] theorem startRoundIfDue_engine (s : State) : (startRoundIfDue s).engine = s.engine := by
  unfold startRoundIfDue
  split <;> rfl

@[simp] theorem completeDiscovery_engine (s : State) : (completeDiscovery s).engine = s.engine := by
  unfold completeDiscovery
  split <;> rfl

@[simp] theorem startInterval_engine (s : State) : (startInterval s).engine = s.engine := by
  unfold startInterval
  split <;> rfl

@[simp] theorem stopInterval_engine (s : State) : (stopInterval s).engine = s.engine := rfl

@[simp] theorem enterHeld_engine (s : State) : (enterHeld s).engine = s.engine := rfl

@[simp] theorem enterStopped_engine (t : Stamp) (s : State) : (enterStopped t s).engine = s.engine := rfl

@[simp] theorem applyDisable_engine (n : StationId) (t : Stamp) (s : State) :
    (applyDisable n t s).engine = s.engine := rfl

theorem startLink_engine (s : State) : (startLink s).1.engine = s.engine := by
  unfold startLink
  split
  · simp
  all_goals rfl

theorem stopLink_engine (s : State) : (stopLink s).1.engine = s.engine := by
  unfold stopLink
  split
  · split <;> rfl
  · split <;> rfl
  all_goals rfl

theorem holdLink_engine (s : State) : (holdLink s).1.engine = s.engine := by
  unfold holdLink
  split
  · split <;> rfl
  all_goals rfl

theorem resumeLink_engine (s : State) : (resumeLink s).1.engine = s.engine := by
  unfold resumeLink
  split
  · simp
  · simp
  all_goals rfl

theorem enableStation_engine (n : StationId) (s : State) : (enableStation n s).1.engine = s.engine := by
  unfold enableStation
  split <;> rfl

theorem disableStation_engine (n : StationId) (s : State) : (disableStation n s).1.engine = s.engine := by
  unfold disableStation
  split
  · rfl
  · split <;> simp

theorem queueSlot_engine (i : SlotId) (s : State) : (queueSlot i s).1.engine = s.engine := by
  simp only [queueSlot, apply_ite Prod.fst, apply_ite State.engine, setService_engine, setSlot_engine, ite_self]

theorem withdrawSlot_engine (i : SlotId) (s : State) : (withdrawSlot i s).1.engine = s.engine := by
  unfold withdrawSlot
  split <;> rfl

theorem releaseSlot_engine (i : SlotId) (s : State) : (releaseSlot i s).1.engine = s.engine := by
  unfold releaseSlot
  split <;> rfl

theorem popQueue_engine (s : State) : (popQueue s).1.engine = s.engine := by
  unfold popQueue
  split <;> rfl

theorem withStation_engine {f : StationId → State → State × ResultCode}
    (hf : ∀ n s, (f n s).1.engine = s.engine) (s : State) : (withStation f s).1.engine = s.engine := by
  unfold withStation
  split
  · exact hf _ s
  · rfl

theorem withSlot_engine {f : SlotId → State → State × ResultCode}
    (hf : ∀ i s, (f i s).1.engine = s.engine) (s : State) : (withSlot f s).1.engine = s.engine := by
  unfold withSlot
  split
  · exact hf _ s
  · rfl

/-- No command of R172 touches the engine. -/
theorem commandEffect_engine (k : CommandCode) (s : State) : (commandEffect k s).1.engine = s.engine :=
  match k with
  | .start => startLink_engine s
  | .stop => stopLink_engine s
  | .hold => holdLink_engine s
  | .resume => resumeLink_engine s
  | .enable => withStation_engine enableStation_engine s
  | .disable => withStation_engine disableStation_engine s
  | .clearattn => withStation_engine (fun _ _ => rfl) s
  | .queue => withSlot_engine queueSlot_engine s
  | .withdraw => withSlot_engine withdrawSlot_engine s
  | .release => withSlot_engine releaseSlot_engine s
  | .pop => popQueue_engine s

theorem issue_engine (k : CommandCode) (s : State) : (issue k s).engine = s.engine := commandEffect_engine k s

@[simp] theorem writeCmd_engine (v : Byte) (s : State) : (writeCmd v s).engine = s.engine := by
  rcases writeCmd_cases v s with ⟨k, -, e⟩ | ⟨-, e⟩
  · rw [e, issue_engine]
  · rw [e, setCmdres_engine]

/-! ### The accesses to the registers leave the engine -/

@[simp] theorem rateWritten_engine (r : ConfigRegister) (s : State) : (rateWritten r s).engine = s.engine := by
  unfold rateWritten
  split <;> rfl

@[simp] theorem writeConfig_engine (r : ConfigRegister) (v : Byte) (s : State) :
    (writeConfig r v s).engine = s.engine := by
  unfold writeConfig
  split <;> simp

@[simp] theorem writeSlotField_engine (f : SlotField) (v : Byte) (s : State) :
    (writeSlotField f v s).engine = s.engine := by
  unfold writeSlotField
  dsimp only
  split
  · split <;> rfl
  · rfl

@[simp] theorem writeSlreq_engine (v : Byte) (s : State) : (writeSlreq v s).engine = s.engine := by
  unfold writeSlreq
  dsimp only
  split <;> rfl

@[simp] theorem writeFilter_engine (f : FilterField) (v : Byte) (s : State) :
    (writeFilter f v s).engine = s.engine := by
  unfold writeFilter
  split <;> rfl

@[simp] theorem writeIenab_engine (v : Byte) (s : State) : (writeIenab v s).engine = s.engine := by
  unfold writeIenab
  split <;> rfl

@[simp] theorem writeNthresh_engine (v : Byte) (s : State) : (writeNthresh v s).engine = s.engine := by
  unfold writeNthresh
  split <;> rfl

@[simp] theorem writeFdefault_engine (v : Byte) (s : State) : (writeFdefault v s).engine = s.engine := by
  unfold writeFdefault
  split <;> rfl

@[simp] theorem writeSlotsel_engine (v : Byte) (s : State) : (writeSlotsel v s).engine = s.engine := by
  unfold writeSlotsel
  split <;> rfl

@[simp] theorem writeSlptr_engine (v : Byte) (s : State) : (writeSlptr v s).engine = s.engine := by
  unfold writeSlptr
  split <;> rfl

@[simp] theorem writeStasel_engine (v : Byte) (s : State) : (writeStasel v s).engine = s.engine := by
  unfold writeStasel
  split <;> rfl

@[simp] theorem writeFsel_engine (v : Byte) (s : State) : (writeFsel v s).engine = s.engine := by
  unfold writeFsel
  split <;> rfl

@[simp] theorem writeStcfg_engine (v : Byte) (s : State) : (writeStcfg v s).engine = s.engine := by
  unfold writeStcfg
  split <;> rfl

@[simp] theorem writeCmdarg_engine (v : Byte) (s : State) : (writeCmdarg v s).engine = s.engine := rfl
@[simp] theorem writeLinkstat_engine (v : Byte) (s : State) : (writeLinkstat v s).engine = s.engine := rfl
@[simp] theorem writeIstat_engine (v : Byte) (s : State) : (writeIstat v s).engine = s.engine := rfl

/-- No write, at whatever address, touches the engine. -/
theorem writeRegister_engine (a : BitVec 6) (v : Byte) (s : State) : (writeRegister a v s).engine = s.engine := by
  unfold writeRegister
  dsimp only
  split
  · exact writeConfig_engine _ v s
  · exact writeSlotField_engine _ v s
  · exact writeFilter_engine _ v s
  · simp [apply_ite State.engine]

theorem readTime0_engine (s : State) : (readTime0 s).engine = s.engine := rfl
theorem readSlrply_engine (s : State) : (readSlrply s).engine = s.engine := rfl

theorem hostAccess_engine {f : State → State} (hf : ∀ s, (f s).engine = s.engine) (s : State) :
    (hostAccess f s).engine = s.engine := by
  unfold hostAccess
  split
  · rfl
  · exact hf s

/-! ### The line without an exchange -/

section
variable {s : State} (h : s.engine = none)
include h

theorem engineTakes_begins_none (v : Byte) (stopHigh : Bool) (byteEnd : Nat) :
    (engineTakes v stopHigh byteEnd s).engine = none := by simp [engineTakes, h]

theorem beginReply_begins_none (edge : Nat) : (beginReply edge s).engine = none := by simp [beginReply, h]

theorem echoLimitPasses_begins_none : (echoLimitPasses s).engine = none := by simp [echoLimitPasses, h]

theorem windowExpires_begins_none : (windowExpires s).engine = none := by simp [windowExpires, h]

theorem replyIsCutOff_begins_none : (replyIsCutOff s).engine = none := by simp [replyIsCutOff, h]

theorem quietCountReached_begins_none : (quietCountReached s).engine = none := by simp [quietCountReached, h]

theorem quietDeadlinePasses_begins_none : (quietDeadlinePasses s).engine = none := by simp [quietDeadlinePasses, h]

theorem receiveByte_begins_none (v : Byte) (stopHigh : Bool) : (receiveByte v stopHigh s).engine = none := by
  unfold receiveByte
  split
  · split
    · exact engineTakes_begins_none ((setReceiver_engine s _).trans h) v stopHigh _
    · exact h
  · exact h

theorem confirmStartBit_begins_none (low : Bool) : (confirmStartBit low s).engine = none := by
  unfold confirmStartBit
  split
  · split
    · split
      · exact beginReply_begins_none ((setReceiver_engine s _).trans h) _
      · exact h
    · exact h
  · exact h

end

theorem fallingEdge_engine (s : State) : (fallingEdge s).engine = s.engine := by
  unfold fallingEdge
  split <;> rfl

theorem seenHigh_engine (s : State) : (seenHigh s).engine = s.engine := by
  unfold seenHigh
  split <;> rfl

theorem gapPasses_engine (s : State) : (gapPasses s).engine = s.engine := by
  unfold gapPasses
  split <;> rfl

/-! ### The timers and the counter leave the engine -/

theorem backoffExpires_engine (i : SlotId) (s : State) : (backoffExpires i s).engine = s.engine := by
  unfold backoffExpires
  split
  · split <;> rfl
  · rfl

theorem roundTimerExpires_engine (s : State) : (roundTimerExpires s).engine = s.engine := by
  unfold roundTimerExpires
  split
  · split
    · simp
    · rfl
  all_goals rfl

theorem intervalExpires_engine (s : State) : (intervalExpires s).engine = s.engine := by
  unfold intervalExpires
  split
  · split <;> rfl
  · rfl

theorem tick_engine (s : State) : (tick s).engine = s.engine := rfl

/-! ### Every row but the choice -/

theorem releaseReset_engine (rxdHigh : Bool) (s : State) : (releaseReset rxdHigh s).engine = s.engine := by
  unfold releaseReset
  split <;> rfl

/-- An event of the line or of a timer that begins no exchange begins none under the guards of /RESET and CLK. -/
theorem linkEvent_begins_none {f : State → State} (hf : ∀ s, s.engine = none → (f s).engine = none) {s : State}
    (h : s.engine = none) : (linkEvent f s).engine = none :=
  linkEvent_keeps (P := fun s => s.engine = none) hf h

/-- R25: with no exchange in flight, a row that is not the choice leaves none. -/
theorem exec_begins_none {c : Instr} {s : State} (hc : c ≠ .schedulerChoice) (he : s.engine = none) :
    ∃ t, exec c s = .next t ∧ t.engine = none := by
  cases c with
  | schedulerChoice => exact absurd rfl hc
  | deviceReset => exact ⟨_, rfl, rfl⟩
  | clkStop | clkRestart => exact ⟨_, rfl, he⟩
  | resetReleased rxdHigh => exact ⟨_, rfl, (releaseReset_engine rxdHigh s).trans he⟩
  | start | stop | hold | resume | enable | disable | clearattn | queue | withdraw | release | pop =>
    exact ⟨_, rfl, (hostAccess_engine (issue_engine _) s).trans he⟩
  | unknownCommandCode v => exact ⟨_, rfl, (hostAccess_engine (writeCmd_engine v) s).trans he⟩
  | time0Read => exact ⟨_, rfl, (hostAccess_engine readTime0_engine s).trans he⟩
  | slrplyRead => exact ⟨_, rfl, (hostAccess_engine readSlrply_engine s).trans he⟩
  | slreqWrite v => exact ⟨_, rfl, (hostAccess_engine (writeSlreq_engine v) s).trans he⟩
  | slotselWrite v => exact ⟨_, rfl, (hostAccess_engine (writeSlotsel_engine v) s).trans he⟩
  | slotRequestFieldWrite f v => exact ⟨_, rfl, (hostAccess_engine (writeSlotField_engine f v) s).trans he⟩
  | classWrite v | attentionModeWrite v => exact ⟨_, rfl, (hostAccess_engine (writeStcfg_engine v) s).trans he⟩
  | clearRlate v | clearWrej v => exact ⟨_, rfl, (hostAccess_engine (writeLinkstat_engine v) s).trans he⟩
  | clearOvr v | clearLink v => exact ⟨_, rfl, (hostAccess_engine (writeIstat_engine v) s).trans he⟩
  | nthreshWrite v => exact ⟨_, rfl, (hostAccess_engine (writeNthresh_engine v) s).trans he⟩
  | ienabWrite v => exact ⟨_, rfl, (hostAccess_engine (writeIenab_engine v) s).trans he⟩
  | configurationWrite r v => exact ⟨_, rfl, (hostAccess_engine (writeConfig_engine r v) s).trans he⟩
  | filterWrite f v => exact ⟨_, rfl, (hostAccess_engine (writeFilter_engine f v) s).trans he⟩
  | fdefaultWrite v => exact ⟨_, rfl, (hostAccess_engine (writeFdefault_engine v) s).trans he⟩
  | registerWrite a v => exact ⟨_, rfl, (hostAccess_engine (writeRegister_engine a v) s).trans he⟩
  | byteReceived v stopHigh =>
    exact ⟨_, rfl, linkEvent_begins_none (fun _ h => receiveByte_begins_none h v stopHigh) he⟩
  | echoLimit => exact ⟨_, rfl, linkEvent_begins_none (fun _ h => echoLimitPasses_begins_none h) he⟩
  | responseWindowExpiry =>
    exact ⟨_, rfl, linkEvent_begins_none (fun _ h => windowExpires_begins_none h) he⟩
  | replyCutOff => exact ⟨_, rfl, linkEvent_begins_none (fun _ h => replyIsCutOff_begins_none h) he⟩
  | quietCount =>
    exact ⟨_, rfl, linkEvent_begins_none (fun _ h => quietCountReached_begins_none h) he⟩
  | quietWaitDeadline =>
    exact ⟨_, rfl, linkEvent_begins_none (fun _ h => quietDeadlinePasses_begins_none h) he⟩
  | turnaroundGap => exact ⟨_, rfl, linkEvent_begins_none (fun s h => (gapPasses_engine s).trans h) he⟩
  | backoffExpiry i => exact ⟨_, rfl, linkEvent_begins_none (fun s h => (backoffExpires_engine i s).trans h) he⟩
  | roundTimerExpiry => exact ⟨_, rfl, linkEvent_begins_none (fun s h => (roundTimerExpires_engine s).trans h) he⟩
  | intervalTimerExpiry =>
    exact ⟨_, rfl, linkEvent_begins_none (fun s h => (intervalExpires_engine s).trans h) he⟩
  | startBitEdge => exact ⟨_, rfl, linkEvent_begins_none (fun s h => (fallingEdge_engine s).trans h) he⟩
  | startBitConfirmation low =>
    exact ⟨_, rfl, linkEvent_begins_none (fun _ h => confirmStartBit_begins_none h low) he⟩
  | rxdSeenHigh => exact ⟨_, rfl, linkEvent_begins_none (fun s h => (seenHigh_engine s).trans h) he⟩
  | timeCounterTick => exact ⟨_, rfl, linkEvent_begins_none (fun s h => (tick_engine s).trans h) he⟩

/-- Settles O41: the one state after the row has no exchange in flight. -/
theorem exchangesBeginOnlyAtChoices : Obligations.ExchangesBeginOnlyAtChoices := by
  intro c s t hc he ht
  obtain ⟨u, hu, none_in_flight⟩ := exec_begins_none hc he
  obtain rfl : u = t := Host.Outcome.next.inj (hu.symm.trans ht)
  exact none_in_flight

end Sys2Proof.Machine
end

section
/-! SUPPORT. The end of an exchange: what leaves a list, the entries that a LINEERROR leaves, and the whole report. -/

namespace Sys2Proof.Machine

/-! ### Steps 1 to 4 on the entries after a LINEERROR -/

theorem Station.report_of_lineError {r : Report} (h : r.outcome = .lineError) (st : Station) :
    st.report r = (st, none) := by
  unfold Station.report
  cases st.state with
  | unused => rfl
  | absent => simp [Station.absentReport, h]
  | isolated => simp [Station.isolatedReport, h]
  | online | degraded => simp [Station.servedReport, h]

theorem stationStep_of_lineError {r : Report} (h : r.outcome = .lineError) (s : State) (m : StationId) :
    (stationStep r s).1.station m = s.station m ∧ (stationStep r s).2 = none := by
  cases hn : r.job.station? with
  | none => simp [stationStep_no_target hn]
  | some n =>
    rw [stationStep_station hn, stationStep_transition hn, Station.report_of_lineError h]
    refine ⟨?_, rfl⟩
    split
    · next hnm => rw [hnm]
    · rfl

theorem Station.acknowledged_of_not_good {r : Report} (h : r.outcome ≠ .good) (st : Station) :
    st.acknowledged r = st := by
  unfold Station.acknowledged
  split
  · next hgood => exact absurd hgood h
  · rfl

/-- R115, R123: without a reply and without a GOOD outcome the attention unit has nothing to take. -/
theorem attentionStep_of_no_reply {r : Report} (ho : r.outcome ≠ .good) (hr : r.reply = none) (s : State)
    (m : StationId) : (attentionStep r s).station m = s.station m := by
  unfold attentionStep
  split
  · rfl
  · split
    · rw [hr, Station.acknowledged_of_not_good ho, setStation_station]
      split
      · next hnm => rw [hnm]
      · rfl
    · rfl

theorem Slot.overrideByStation_of_no_transition (sl : Slot) : sl.overrideByStation none = sl := by
  simp [Slot.overrideByStation]

/-- R86: a slot that is QUEUED again stays so, or fails by what the host asked for. -/
theorem Slot.overrideByHost_of_requeue (sl : Slot) (disablePending stopping : Bool) :
    sl.requeue.overrideByHost disablePending stopping = sl.requeue ∨
      ∃ o, (o = .stationDisabled ∨ o = .stopped) ∧
        sl.requeue.overrideByHost disablePending stopping = sl.requeue.fail o := by
  unfold Slot.overrideByHost
  split
  · split
    · exact Or.inr ⟨_, Or.inl rfl, rfl⟩
    · split
      · exact Or.inr ⟨_, Or.inr rfl, rfl⟩
      · exact Or.inl rfl
  · exact Or.inl rfl

/-- R84: a slot whose exchange ended in LINEERROR has not used up its retries. -/
theorem Slot.report_not_exhausted {r : Report} (h : r.outcome = .lineError) (sl : Slot) (c : TimingConfig)
    (disablePending stopping : Bool) : (sl.report c r none disablePending stopping).exhausted = false := by
  have requeued : (sl.countAttempt r.frameWhole).applyOutcome c r = (sl.countAttempt r.frameWhole).requeue := by
    simp [Slot.applyOutcome, h]
  rw [Slot.report, requeued, Slot.overrideByStation_of_no_transition]
  rcases Slot.overrideByHost_of_requeue (sl.countAttempt r.frameWhole) disablePending stopping with
    e | ⟨o, rfl | rfl, e⟩
  · rw [e]
    simp [Slot.requeue, Slot.stamped, Slot.finished, Slot.exhausted]
  · simp [e, fail_stamped, Slot.exhausted]
  · simp [e, fail_stamped, Slot.exhausted]

/-- R56: the resync flag follows retries that are used up alone. -/
theorem applyToSlot_station_of_lineError {r : Report} (h : r.outcome = .lineError) (i : SlotId) (n m : StationId)
    (s : State) : (applyToSlot r none i n s).station m = s.station m := by
  unfold applyToSlot
  dsimp only
  rw [Slot.report_not_exhausted h, if_neg (by decide)]
  split <;> rfl

theorem slotStep_station_of_lineError {r : Report} (h : r.outcome = .lineError) (s : State) (m : StationId) :
    (slotStep r none s).station m = s.station m := by
  cases hj : r.job with
  | request i k n sent =>
    have e : slotStep r none s = applyToSlot r none i n s := by simp [slotStep, hj, Job.station?, massFailure]
    rw [e, applyToSlot_station_of_lineError h]
  | probe _ _ | poll _ | attnAck _ | timeMark => simp [slotStep, hj, Job.station?, massFailure]

theorem afterSlots_station_of_lineError {r : Report} (ho : r.outcome = .lineError) (hr : r.reply = none) (s : State)
    (m : StationId) : (afterSlots r s).station m = s.station m := by
  unfold afterSlots
  obtain ⟨entry_kept, no_transition⟩ := stationStep_of_lineError ho (s.setEngine none) m
  rw [no_transition, slotStep_station_of_lineError ho, attentionStep_of_no_reply (by simp [ho]) hr, entry_kept]
  rfl

theorem disableStep_of_no_disable {r : Report} {s : State} (h : ∀ m, (s.station m).disablePending = false) :
    disableStep r s = s := by
  rcases disableStep_cases r s with e | ⟨n, -, hpending, -⟩
  · exact e
  · simp [h n] at hpending

/-- Steps 5 and 6 and what follows them leave the entries as step 4 left them. -/
theorem takeReport_station (r : Report) (s : State) (n : StationId) :
    (takeReport r s).station n = (afterDisable r s).station n := by
  rw [takeReport_eq, afterRemoval_station, leaveList_station, timeStep_station, linkStep_station]
  rfl

/-- R45: a LINEERROR leaves every entry as it was. -/
theorem takeReport_station_of_lineError {r : Report} {s : State} (ho : r.outcome = .lineError) (hr : r.reply = none)
    (hd : ∀ m, (s.station m).disablePending = false) (n : StationId) : (takeReport r s).station n = s.station n := by
  have no_disable (m : StationId) : ((afterSlots r s).station m).disablePending = false := by
    rw [afterSlots_station_of_lineError ho hr, hd]
  rw [takeReport_station, afterDisable, disableStep_of_no_disable no_disable, afterSlots_station_of_lineError ho hr]

/-! ### Step 6 -/

theorem timeStep_eq (r : Report) (s : State) :
    timeStep r s =
      { s with
        time := { s.time with pendingMark := if r.outcome = .sent then false else s.time.pendingMark } } := by
  unfold timeStep
  split <;> rfl

/-! ### The entry that leaves its list -/

theorem leaveDiscovery_of_head {s : State} {n : StationId} {rest : List StationId}
    (h : s.sched.discovery = n :: rest) : s.leaveDiscovery n = s.setSched { s.sched with discovery := rest } := by
  simp [State.leaveDiscovery, h]

theorem leaveDiscovery_of_other_head {s : State} {n : StationId} (h : s.sched.discovery.head? ≠ some n) :
    s.leaveDiscovery n = s := by
  unfold State.leaveDiscovery
  split
  · next m rest hl => exact if_neg fun hm => h (by rw [hl, hm]; rfl)
  · rfl

theorem leaveRoundList_of_head {s : State} {n : StationId} {item : RoundItem} {rest : List RoundItem}
    (h : s.sched.roundList = item :: rest) (hn : item.station = n) :
    s.leaveRoundList n = s.setSched { s.sched with roundList := rest } := by
  simp [State.leaveRoundList, h, hn]

theorem leaveRoundList_of_other_head {s : State} {n : StationId}
    (h : ∀ item rest, s.sched.roundList = item :: rest → item.station ≠ n) : s.leaveRoundList n = s := by
  unfold State.leaveRoundList
  split
  · next item rest hl => exact if_neg (h item rest hl)
  · rfl

/-! ### The whole report -/

/-- What a report leaves: the receiver, the host interface unit, the clock, the queue of commands, the counter, the
snapshot, the configuration and WREJ. -/
theorem takeReport_frame (r : Report) (s : State) :
    (takeReport r s).receiver = s.receiver ∧ (takeReport r s).host = s.host ∧ (takeReport r s).clock = s.clock ∧
      (takeReport r s).time.counter = s.time.counter ∧ (takeReport r s).time.snapshot = s.time.snapshot ∧
      (takeReport r s).pending = s.pending ∧ (takeReport r s).link.config = s.link.config ∧
      (takeReport r s).link.wrej = s.link.wrej := by
  rw [takeReport_eq]
  simp

theorem takeReport_pendingMark_of_sent {r : Report} (h : r.outcome = .sent) (s : State) :
    (takeReport r s).time.pendingMark = false := by
  rw [takeReport_eq, afterRemoval_time, leaveList_time, timeStep_eq]
  exact if_pos h

/-- Settles O55: the steps and what they leave by the laws of each step, the lists by their heads, and the entries after
a LINEERROR step by step. -/
theorem reportTakenInStepsEndsTheExchange : Obligations.ReportTakenInStepsEndsTheExchange := by
  refine ⟨fun r s => ⟨rfl, timeStep_eq r _⟩, fun j s => ⟨fun n hj => ?_, fun n hj => ?_, fun hj => ?_⟩,
    fun r s => ?_, fun r s n ho hr hd => takeReport_station_of_lineError ho hr hd n⟩
  · subst hj
    exact ⟨fun rest h => leaveDiscovery_of_head h, leaveDiscovery_of_other_head⟩
  · have item_of_job : j.roundStation? = some n := by rcases hj with rfl | rfl | rfl <;> rfl
    rw [leaveList_round item_of_job]
    exact ⟨fun item rest h hn => leaveRoundList_of_head h hn, leaveRoundList_of_other_head⟩
  · rcases hj with rfl | ⟨n, rfl | rfl⟩ | ⟨i, k, n, sent, rfl⟩ <;> rfl
  · obtain ⟨hrecv, hhost, hclock, hcounter, hsnap, hpending, hconfig, hwrej⟩ := takeReport_frame r s
    exact ⟨takeReport_engine r s, hrecv, hhost, hclock, hcounter, hsnap, hpending, hconfig, hwrej,
      fun h => takeReport_pendingMark_of_sent h s⟩

end Sys2Proof.Machine
end

section
/-! SUPPORT. What every step keeps: the effect of each row without its guard, and the two invariants over the rows. -/

namespace Sys2Proof.Machine

/-! ### The effect of a row -/

/-- What a row does once the guards of /RESET and CLK let it act. -/
def rowEffect : Instr → State → State
  | .deviceReset => deviceReset
  | .clkStop => fun s => { s with clkRunning := false }
  | .clkRestart => fun s => { s with clkRunning := true }
  | .resetReleased rxdHigh => releaseReset rxdHigh
  | .start => issue .start
  | .stop => issue .stop
  | .hold => issue .hold
  | .resume => issue .resume
  | .enable => issue .enable
  | .disable => issue .disable
  | .clearattn => issue .clearattn
  | .queue => issue .queue
  | .withdraw => issue .withdraw
  | .release => issue .release
  | .pop => issue .pop
  | .unknownCommandCode code => writeCmd code
  | .time0Read => readTime0
  | .slrplyRead => readSlrply
  | .slreqWrite v => writeSlreq v
  | .slotselWrite v => writeSlotsel v
  | .slotRequestFieldWrite f v => writeSlotField f v
  | .classWrite v | .attentionModeWrite v => writeStcfg v
  | .clearRlate v | .clearWrej v => writeLinkstat v
  | .clearOvr v | .clearLink v => writeIstat v
  | .nthreshWrite v => writeNthresh v
  | .ienabWrite v => writeIenab v
  | .configurationWrite r v => writeConfig r v
  | .filterWrite f v => writeFilter f v
  | .fdefaultWrite v => writeFdefault v
  | .registerWrite a v => writeRegister a v
  | .byteReceived v stopHigh => receiveByte v stopHigh
  | .echoLimit => echoLimitPasses
  | .responseWindowExpiry => windowExpires
  | .replyCutOff => replyIsCutOff
  | .quietCount => quietCountReached
  | .quietWaitDeadline => quietDeadlinePasses
  | .turnaroundGap => gapPasses
  | .schedulerChoice => schedulerChooses
  | .backoffExpiry i => backoffExpires i
  | .roundTimerExpiry => roundTimerExpires
  | .intervalTimerExpiry => intervalExpires
  | .startBitEdge => fallingEdge
  | .startBitConfirmation rxdLow => confirmStartBit rxdLow
  | .rxdSeenHigh => seenHigh
  | .timeCounterTick => tick

theorem exec_of_isInput {c : Instr} (h : c.isInput = true) (s : State) : exec c s = .next (rowEffect c s) := by
  cases c with
  | deviceReset | clkStop | clkRestart | resetReleased _ => rfl
  | _ => simp [Instr.isInput] at h

theorem exec_eq_hostAccess {c : Instr} (h : c.isHostAccess = true) (s : State) :
    exec c s = .next (hostAccess (rowEffect c) s) := by
  cases c with
  | deviceReset | clkStop | clkRestart | resetReleased _ | byteReceived _ _ | echoLimit | responseWindowExpiry
  | replyCutOff | quietCount | quietWaitDeadline | turnaroundGap | schedulerChoice | backoffExpiry _
  | roundTimerExpiry | intervalTimerExpiry | startBitEdge | startBitConfirmation _ | rxdSeenHigh
  | timeCounterTick => simp [Instr.isHostAccess] at h
  | _ => rfl

theorem exec_eq_linkEvent {c : Instr} (h : c.isLinkEvent = true) (s : State) :
    exec c s = .next (linkEvent (rowEffect c) s) := by
  cases c with
  | byteReceived _ _ | echoLimit | responseWindowExpiry | replyCutOff | quietCount | quietWaitDeadline
  | turnaroundGap | schedulerChoice | backoffExpiry _ | roundTimerExpiry | intervalTimerExpiry | startBitEdge
  | startBitConfirmation _ | rxdSeenHigh | timeCounterTick => rfl
  | _ => simp [Instr.isLinkEvent, Instr.isHostAccess, Instr.isInput] at h

/-- A property that the effect of every row keeps, and that does not look at the queue of commands, every step
keeps. -/
theorem step_keeps {P : State → Prop} (effect : ∀ c s, P s → P (rowEffect c s))
    (queue : ∀ s l, P s → P { s with pending := l }) {s t : State} (h : P s) (hs : step s = .next t) : P t := by
  unfold step at hs
  split at hs
  · exact Host.Outcome.next.inj hs ▸ h
  · next c rest _ =>
    have hq : P { s with pending := rest } := queue s rest h
    by_cases access : c.isHostAccess = true
    · rw [exec_eq_hostAccess access] at hs
      exact Host.Outcome.next.inj hs ▸ hostAccess_keeps (effect c) hq
    · by_cases input : c.isInput = true
      · rw [exec_of_isInput input] at hs
        exact Host.Outcome.next.inj hs ▸ effect c _ hq
      · rw [exec_eq_linkEvent (by simp [Instr.isLinkEvent, access, input])] at hs
        exact Host.Outcome.next.inj hs ▸ linkEvent_keeps (effect c) hq

/-! ### The invariant of the part -/

/-- R40, R66, R94, R143, R151, R152: the reset values.  Nothing is in flight, in service or in a list. -/
theorem reset_inv : State.reset.Inv := by
  have entry (n : StationId) : State.reset.station n = .reset := by
    simp [State.station, State.reset]
  have record (i : SlotId) : State.reset.slot i = .reset := by
    simp [State.slot, State.reset]
  refine ⟨fun n => ?_, fun n h => ?_, ?_, fun h => absurd rfl h, trivial, ⟨⟨.nil, fun i => ?_, fun i => ?_⟩, fun i => ?_⟩,
    ⟨fun i h => ?_, fun _ i => ?_⟩, ?_, fun r => ?_, ⟨.nil, ?_, .nil, ?_⟩, rfl⟩
  · rw [entry]
    simp [Station.ok, Station.countersBounded, Station.attentionOk, Station.idleFieldsClear, Station.reset]
  · rw [entry] at h
    cases h
  · exact ⟨rfl, rfl, rfl, rfl, rfl, rfl, Nat.zero_le 8⟩
  · rw [record]
    simp [State.reset, Slot.reset, Slot.inService]
  · rw [record]
    simp [Slot.reset]
  · rw [record]
    simp [State.requestInFlight, State.reset, Slot.reset]
  · rw [record] at h
    cases h
  · rw [record]
    rfl
  · simp [State.queueOk, State.reset, NotificationUnit.reset]
  · cases r <;> decide
  · simp [State.reset, Scheduler.reset]
  · simp [State.reset, Scheduler.reset]

/-- Settles O59. -/
theorem invariantHoldsAtReset : Obligations.InvariantHoldsAtReset := reset_inv

/-- R1, R184: /RESET leaves the reset state but for inputs that the invariant does not look at. -/
theorem deviceReset_inv (s : State) : (deviceReset s).Inv :=
  have r := reset_inv
  ⟨r.stations, r.disablePending, r.link, r.burst, r.engine, r.service, r.law, r.queue, r.config, r.lists, r.clocks⟩

theorem issue_inv {s : State} (k : CommandCode) (h : s.Inv) : (issue k s).Inv := setHost_inv _ (commandEffect_inv k h)

theorem rowEffect_inv (c : Instr) (s : State) (h : s.Inv) : (rowEffect c s).Inv := by
  cases c with
  | deviceReset => exact deviceReset_inv s
  | clkStop | clkRestart => exact clkRunning_inv _ h
  | resetReleased rxdHigh => exact releaseReset_inv rxdHigh h
  | start | stop | hold | resume | enable | disable | clearattn | queue | withdraw | release | pop => exact issue_inv _ h
  | unknownCommandCode v => exact writeCmd_inv v h
  | time0Read => exact readTime0_inv h
  | slrplyRead => exact readSlrply_inv h
  | slreqWrite v => exact writeSlreq_inv v h
  | slotselWrite v => exact writeSlotsel_inv v h
  | slotRequestFieldWrite f v => exact writeSlotField_inv f v h
  | classWrite v | attentionModeWrite v => exact writeStcfg_inv v h
  | clearRlate v | clearWrej v => exact writeLinkstat_inv v h
  | clearOvr v | clearLink v => exact writeIstat_inv v h
  | nthreshWrite v => exact writeNthresh_inv v h
  | ienabWrite v => exact writeIenab_inv v h
  | configurationWrite r v => exact writeConfig_inv r v h
  | filterWrite f v => exact writeFilter_inv f v h
  | fdefaultWrite v => exact writeFdefault_inv v h
  | registerWrite a v => exact writeRegister_inv a v h
  | byteReceived v stopHigh => exact receiveByte_inv v stopHigh h
  | echoLimit => exact echoLimitPasses_inv h
  | responseWindowExpiry => exact windowExpires_inv h
  | replyCutOff => exact replyIsCutOff_inv h
  | quietCount => exact quietCountReached_inv h
  | quietWaitDeadline => exact quietDeadlinePasses_inv h
  | turnaroundGap => exact gapPasses_inv h
  | schedulerChoice => exact schedulerChooses_inv h
  | backoffExpiry i => exact backoffExpires_inv i h
  | roundTimerExpiry => exact roundTimerExpires_inv h
  | intervalTimerExpiry => exact intervalExpires_inv h
  | startBitEdge => exact fallingEdge_inv h
  | startBitConfirmation rxdLow => exact confirmStartBit_inv rxdLow h
  | rxdSeenHigh => exact seenHigh_inv h
  | timeCounterTick => exact tick_inv h

/-- Settles O60: the effect of every row keeps the invariant, and no guard is in its way. -/
theorem invariantIsKeptByEveryStep : Obligations.InvariantIsKeptByEveryStep :=
  fun _ _ h hs => step_keeps rowEffect_inv (fun _ l h => pending_inv l h) h hs

end Sys2Proof.Machine
end

section
/-! SUPPORT. The bounds of the health counters (R46) over the rows: what leaves the station table as it is, and what the
rows that change an entry keep. -/

namespace Sys2Proof.Machine

/-- R46: every entry's counters are within their bounds. -/
def State.healthOk (s : State) : Prop := ∀ n, (s.station n).countersBounded

theorem healthOk_of_stations {s t : State} (e : t.stations = s.stations) (h : s.healthOk) : t.healthOk := by
  intro n
  have same : t.station n = s.station n := by simp [State.station, e]
  exact same ▸ h n

/-! ### Entries -/

/-- The bounds speak of the state and the two counters alone. -/
theorem Station.countersBounded_of_fields {a b : Station} (hs : b.state = a.state)
    (hf : b.faultCounter = a.faultCounter) (hm : b.missCount = a.missCount) (h : a.countersBounded) :
    b.countersBounded := by
  unfold Station.countersBounded at *
  rw [hs, hf, hm]
  exact h

theorem Station.enable_countersBounded {st : Station} (hu : st.state = .unused) (h : st.countersBounded) :
    st.enable.countersBounded := by
  unfold Station.countersBounded at *
  rw [hu] at h
  exact h

theorem Station.restart_countersBounded {st : Station} (h : st.countersBounded) : st.restart.countersBounded := by
  unfold Station.restart
  split
  · exact h
  · exact ⟨Nat.zero_le 3, rfl, rfl⟩

theorem Station.clearAttn_countersBounded {st : Station} (h : st.countersBounded) :
    st.clearAttn.1.countersBounded := by
  unfold Station.clearAttn
  split
  · exact h
  · split
    · exact Station.countersBounded_of_fields rfl rfl rfl h
    · exact h

theorem setStation_healthOk {s : State} {n : StationId} {x : Station} (h : s.healthOk) (hx : x.countersBounded) :
    (s.setStation n x).healthOk := by
  intro m
  rw [setStation_station]
  split
  · exact hx
  · exact h m

/-! ### What leaves the station table -/

@[simp] theorem startRoundIfDue_stations (s : State) : (startRoundIfDue s).stations = s.stations := by
  unfold startRoundIfDue
  split <;> rfl

@[simp] theorem completeDiscovery_stations (s : State) : (completeDiscovery s).stations = s.stations := by
  unfold completeDiscovery
  split <;> rfl

@[simp] theorem startInterval_stations (s : State) : (startInterval s).stations = s.stations := by
  rw [startInterval_frame]

theorem stopLink_stations (s : State) : (stopLink s).1.stations = s.stations := by
  unfold stopLink
  split
  · split <;> rfl
  · split <;> rfl
  all_goals rfl

theorem holdLink_stations (s : State) : (holdLink s).1.stations = s.stations := by
  unfold holdLink
  split
  · split <;> rfl
  all_goals rfl

theorem resumeLink_stations (s : State) : (resumeLink s).1.stations = s.stations := by
  unfold resumeLink
  split
  · simp
  · simp
  all_goals rfl

theorem queueSlot_stations (i : SlotId) (s : State) : (queueSlot i s).1.stations = s.stations := by
  simp only [queueSlot, apply_ite Prod.fst, apply_ite State.stations, setService_stations, setSlot_stations, ite_self]

theorem withdrawSlot_stations (i : SlotId) (s : State) : (withdrawSlot i s).1.stations = s.stations := by
  unfold withdrawSlot
  split <;> rfl

theorem releaseSlot_stations (i : SlotId) (s : State) : (releaseSlot i s).1.stations = s.stations := by
  unfold releaseSlot
  split <;> rfl

theorem popQueue_stations (s : State) : (popQueue s).1.stations = s.stations := by
  unfold popQueue
  split <;> rfl

theorem writeConfig_stations (r : ConfigRegister) (v : Byte) (s : State) :
    (writeConfig r v s).stations = s.stations := by
  unfold writeConfig rateWritten
  split
  · split <;> rfl
  · rfl

theorem writeSlotField_stations (f : SlotField) (v : Byte) (s : State) :
    (writeSlotField f v s).stations = s.stations := by
  unfold writeSlotField
  dsimp only
  split
  · split <;> rfl
  · rfl

theorem writeSlreq_stations (v : Byte) (s : State) : (writeSlreq v s).stations = s.stations := by
  unfold writeSlreq
  dsimp only
  split <;> rfl

theorem writeFilter_stations (f : FilterField) (v : Byte) (s : State) :
    (writeFilter f v s).stations = s.stations := by
  unfold writeFilter
  split <;> rfl

theorem writeIenab_stations (v : Byte) (s : State) : (writeIenab v s).stations = s.stations := by
  unfold writeIenab
  split <;> rfl

theorem writeNthresh_stations (v : Byte) (s : State) : (writeNthresh v s).stations = s.stations := by
  unfold writeNthresh
  split <;> rfl

theorem writeFdefault_stations (v : Byte) (s : State) : (writeFdefault v s).stations = s.stations := by
  unfold writeFdefault
  split <;> rfl

theorem writeSlotsel_stations (v : Byte) (s : State) : (writeSlotsel v s).stations = s.stations := by
  unfold writeSlotsel
  split <;> rfl

theorem writeSlptr_stations (v : Byte) (s : State) : (writeSlptr v s).stations = s.stations := by
  unfold writeSlptr
  split <;> rfl

theorem writeStasel_stations (v : Byte) (s : State) : (writeStasel v s).stations = s.stations := by
  unfold writeStasel
  split <;> rfl

theorem writeFsel_stations (v : Byte) (s : State) : (writeFsel v s).stations = s.stations := by
  unfold writeFsel
  split <;> rfl

theorem releaseReset_stations (rxdHigh : Bool) (s : State) : (releaseReset rxdHigh s).stations = s.stations := by
  unfold releaseReset
  split <;> rfl

theorem fallingEdge_stations (s : State) : (fallingEdge s).stations = s.stations := by
  unfold fallingEdge
  split <;> rfl

theorem seenHigh_stations (s : State) : (seenHigh s).stations = s.stations := by
  unfold seenHigh
  split <;> rfl

theorem gapPasses_stations (s : State) : (gapPasses s).stations = s.stations := by
  unfold gapPasses
  split <;> rfl

theorem beginReply_stations (edge : Nat) (s : State) : (beginReply edge s).stations = s.stations := by
  unfold beginReply
  split
  · split
    · split <;> rfl
    all_goals rfl
  · rfl

theorem confirmStartBit_stations (low : Bool) (s : State) : (confirmStartBit low s).stations = s.stations := by
  unfold confirmStartBit
  split
  · split
    · split
      · exact beginReply_stations _ _
      · rfl
    · rfl
  · rfl

theorem backoffExpires_stations (i : SlotId) (s : State) : (backoffExpires i s).stations = s.stations := by
  unfold backoffExpires
  split
  · split <;> rfl
  · rfl

theorem roundTimerExpires_stations (s : State) : (roundTimerExpires s).stations = s.stations := by
  unfold roundTimerExpires
  split
  · split
    · simp
    · rfl
  all_goals rfl

theorem intervalExpires_stations (s : State) : (intervalExpires s).stations = s.stations := by
  unfold intervalExpires
  split
  · split <;> rfl
  · rfl

theorem startExchange_stations (j : Job) (s : State) : (startExchange j s).stations = s.stations := by
  unfold startExchange activateSlot
  cases j <;> rfl

theorem schedulerChooses_stations (s : State) : (schedulerChooses s).stations = s.stations := by
  unfold schedulerChooses
  split
  · split
    · exact startExchange_stations _ s
    · rfl
  · rfl

/-! ### The commands and the writes that change an entry -/

theorem startLink_stations {s : State} (h : s.link.state = .stopped) :
    (startLink s).1.stations = mapVec Station.restart s.stations := by
  simp [startLink, h]

theorem startLink_healthOk {s : State} (h : s.healthOk) : (startLink s).1.healthOk := by
  by_cases stopped : s.link.state = .stopped
  · intro n
    have restarted : (startLink s).1.station n = (s.station n).restart := by
      simp [State.station, startLink_stations stopped]
    exact restarted ▸ Station.restart_countersBounded (h n)
  · have refused : startLink s = (s, .wrongState) := by
      unfold startLink
      split
      · contradiction
      all_goals rfl
    exact refused ▸ h

theorem enableStation_healthOk (n : StationId) {s : State} (h : s.healthOk) : (enableStation n s).1.healthOk := by
  unfold enableStation
  split
  · next hu => exact setStation_healthOk h (Station.enable_countersBounded hu (h n))
  · exact h

theorem applyDisable_healthOk (n : StationId) (t : Stamp) {s : State} (h : s.healthOk) :
    (applyDisable n t s).healthOk := by
  intro m
  rw [applyDisable_station]
  split
  · exact (Station.disable_ok _).1
  · exact h m

theorem disableStation_healthOk (n : StationId) {s : State} (h : s.healthOk) : (disableStation n s).1.healthOk := by
  unfold disableStation
  split
  · exact h
  · split
    · exact setStation_healthOk h (Station.countersBounded_of_fields rfl rfl rfl (h n))
    · exact healthOk_of_stations (afterRemoval_stations _) (applyDisable_healthOk n _ h)

theorem clearStationAttn_healthOk (n : StationId) {s : State} (h : s.healthOk) :
    (clearStationAttn n s).1.healthOk :=
  setStation_healthOk h (Station.clearAttn_countersBounded (h n))

theorem withStation_healthOk {f : StationId → State → State × ResultCode} {s : State}
    (hf : ∀ n, (f n s).1.healthOk) (h : s.healthOk) : (withStation f s).1.healthOk := by
  unfold withStation
  split
  · exact hf _
  · exact h

theorem withSlot_healthOk {f : SlotId → State → State × ResultCode} {s : State}
    (hf : ∀ i, (f i s).1.stations = s.stations) (h : s.healthOk) : (withSlot f s).1.healthOk := by
  unfold withSlot
  split
  · exact healthOk_of_stations (hf _) h
  · exact h

theorem commandEffect_healthOk (k : CommandCode) {s : State} (h : s.healthOk) : (commandEffect k s).1.healthOk :=
  match k with
  | .start => startLink_healthOk h
  | .stop => healthOk_of_stations (stopLink_stations s) h
  | .hold => healthOk_of_stations (holdLink_stations s) h
  | .resume => healthOk_of_stations (resumeLink_stations s) h
  | .enable => withStation_healthOk (fun n => enableStation_healthOk n h) h
  | .disable => withStation_healthOk (fun n => disableStation_healthOk n h) h
  | .clearattn => withStation_healthOk (fun n => clearStationAttn_healthOk n h) h
  | .queue => withSlot_healthOk (fun i => queueSlot_stations i s) h
  | .withdraw => withSlot_healthOk (fun i => withdrawSlot_stations i s) h
  | .release => withSlot_healthOk (fun i => releaseSlot_stations i s) h
  | .pop => healthOk_of_stations (popQueue_stations s) h

theorem issue_healthOk (k : CommandCode) {s : State} (h : s.healthOk) : (issue k s).healthOk :=
  commandEffect_healthOk k h

theorem writeCmd_healthOk (v : Byte) {s : State} (h : s.healthOk) : (writeCmd v s).healthOk := by
  rcases writeCmd_cases v s with ⟨k, -, e⟩ | ⟨-, e⟩ <;> rw [e]
  · exact issue_healthOk k h
  · exact h

theorem writeStcfg_healthOk (v : Byte) {s : State} (h : s.healthOk) : (writeStcfg v s).healthOk := by
  unfold writeStcfg
  split
  · exact setStation_healthOk h (Station.countersBounded_of_fields rfl rfl rfl (h _))
  · exact h

theorem ite_healthOk {p : Prop} [Decidable p] {a b : State} (ha : a.healthOk) (hb : b.healthOk) :
    (if p then a else b).healthOk := by
  split
  · exact ha
  · exact hb

theorem writeRegister_healthOk (a : BitVec 6) (v : Byte) {s : State} (h : s.healthOk) :
    (writeRegister a v s).healthOk := by
  unfold writeRegister
  dsimp only
  split
  · exact healthOk_of_stations (writeConfig_stations _ v s) h
  · exact healthOk_of_stations (writeSlotField_stations _ v s) h
  · exact healthOk_of_stations (writeFilter_stations _ v s) h
  · refine ite_healthOk (writeCmd_healthOk v h) (ite_healthOk h (ite_healthOk h (ite_healthOk h ?_)))
    refine ite_healthOk (healthOk_of_stations (writeIenab_stations v s) h) ?_
    refine ite_healthOk (healthOk_of_stations (writeNthresh_stations v s) h) ?_
    refine ite_healthOk (healthOk_of_stations (writeFdefault_stations v s) h) ?_
    refine ite_healthOk (healthOk_of_stations (writeSlotsel_stations v s) h) ?_
    refine ite_healthOk (healthOk_of_stations (writeSlptr_stations v s) h) ?_
    refine ite_healthOk (healthOk_of_stations (writeSlreq_stations v s) h) ?_
    refine ite_healthOk (healthOk_of_stations (writeStasel_stations v s) h) ?_
    exact ite_healthOk (writeStcfg_healthOk v h) (ite_healthOk (healthOk_of_stations (writeFsel_stations v s) h) h)

/-! ### The end of an exchange -/

theorem endExchange_healthOk (e : Exchange) (whole : Bool) (o : ExchangeOutcome) (reply : Option Reply) (t : Nat)
    {s : State} (h : s.healthOk) : (endExchange e whole o reply t s).healthOk :=
  takeReport_countersBounded _ h

theorem compareEcho_healthOk (e : Exchange) (compared : Nat) (v : Byte) (byteEnd : Nat) {s : State} (h : s.healthOk) :
    (compareEcho e compared v byteEnd s).healthOk := by
  unfold compareEcho
  split
  · split
    · exact h
    · split
      · exact endExchange_healthOk e true .sent none byteEnd h
      · exact h
  · exact endExchange_healthOk e false .lineError none byteEnd h

theorem judgeByte_healthOk (e : Exchange) (replyStart : Nat) (bytes : List Byte) (byteEnd : Nat) {s : State}
    (h : s.healthOk) : (judgeByte e replyStart bytes byteEnd s).healthOk := by
  unfold judgeByte
  split
  · exact h
  · exact h
  · exact endExchange_healthOk e true _ _ byteEnd h

theorem engineTakes_healthOk (v : Byte) (stopHigh : Bool) (byteEnd : Nat) {s : State} (h : s.healthOk) :
    (engineTakes v stopHigh byteEnd s).healthOk := by
  unfold engineTakes
  split
  · split
    · exact compareEcho_healthOk _ _ v byteEnd h
    · split
      · exact h
      · exact judgeByte_healthOk _ _ _ byteEnd h
    · exact h
    · exact h
  · exact h

theorem receiveByte_healthOk (v : Byte) (stopHigh : Bool) {s : State} (h : s.healthOk) :
    (receiveByte v stopHigh s).healthOk := by
  unfold receiveByte
  split
  · split
    · exact engineTakes_healthOk v stopHigh _ (s := s.setReceiver _) h
    · exact h
  · exact h

theorem echoLimitPasses_healthOk {s : State} (h : s.healthOk) : (echoLimitPasses s).healthOk := by
  unfold echoLimitPasses
  split
  · split
    · dsimp only
      split
      · exact endExchange_healthOk _ _ _ _ _ (healthOk_of_stations (stopFrame_stations _ s) h)
      · exact h
    all_goals exact h
  · exact h

theorem windowExpires_healthOk {s : State} (h : s.healthOk) : (windowExpires s).healthOk := by
  unfold windowExpires
  split
  · split
    · split
      · exact endExchange_healthOk _ _ _ _ _ (s := s.setReceiver _) h
      · exact h
    all_goals exact h
  · exact h

theorem replyIsCutOff_healthOk {s : State} (h : s.healthOk) : (replyIsCutOff s).healthOk := by
  unfold replyIsCutOff
  split
  · split
    · split
      · split
        · exact endExchange_healthOk _ _ _ _ _ h
        · exact h
      · exact h
    all_goals exact h
  · exact h

theorem quietCountReached_healthOk {s : State} (h : s.healthOk) : (quietCountReached s).healthOk := by
  unfold quietCountReached
  split
  · split
    · split
      · exact endExchange_healthOk _ _ _ _ _ h
      · exact h
    all_goals exact h
  · exact h

theorem quietDeadlinePasses_healthOk {s : State} (h : s.healthOk) : (quietDeadlinePasses s).healthOk := by
  unfold quietDeadlinePasses
  split
  · split
    · split
      · exact endExchange_healthOk _ _ _ _ _ h
      · exact h
    all_goals exact h
  · exact h

/-! ### Every row -/

theorem reset_healthOk : State.reset.healthOk := fun n => (reset_inv.stations n).1

theorem rowEffect_healthOk (c : Instr) (s : State) (h : s.healthOk) : (rowEffect c s).healthOk := by
  cases c with
  | deviceReset => exact reset_healthOk
  | clkStop | clkRestart | time0Read | slrplyRead | timeCounterTick => exact h
  | clearRlate v | clearWrej v | clearOvr v | clearLink v => exact h
  | start | stop | hold | resume | enable | disable | clearattn | queue | withdraw | release | pop =>
    exact issue_healthOk _ h
  | unknownCommandCode v => exact writeCmd_healthOk v h
  | classWrite v | attentionModeWrite v => exact writeStcfg_healthOk v h
  | registerWrite a v => exact writeRegister_healthOk a v h
  | byteReceived v stopHigh => exact receiveByte_healthOk v stopHigh h
  | echoLimit => exact echoLimitPasses_healthOk h
  | responseWindowExpiry => exact windowExpires_healthOk h
  | replyCutOff => exact replyIsCutOff_healthOk h
  | quietCount => exact quietCountReached_healthOk h
  | quietWaitDeadline => exact quietDeadlinePasses_healthOk h
  | resetReleased rxdHigh => exact healthOk_of_stations (releaseReset_stations rxdHigh s) h
  | slreqWrite v => exact healthOk_of_stations (writeSlreq_stations v s) h
  | slotselWrite v => exact healthOk_of_stations (writeSlotsel_stations v s) h
  | slotRequestFieldWrite f v => exact healthOk_of_stations (writeSlotField_stations f v s) h
  | nthreshWrite v => exact healthOk_of_stations (writeNthresh_stations v s) h
  | ienabWrite v => exact healthOk_of_stations (writeIenab_stations v s) h
  | configurationWrite r v => exact healthOk_of_stations (writeConfig_stations r v s) h
  | filterWrite f v => exact healthOk_of_stations (writeFilter_stations f v s) h
  | fdefaultWrite v => exact healthOk_of_stations (writeFdefault_stations v s) h
  | turnaroundGap => exact healthOk_of_stations (gapPasses_stations s) h
  | schedulerChoice => exact healthOk_of_stations (schedulerChooses_stations s) h
  | backoffExpiry i => exact healthOk_of_stations (backoffExpires_stations i s) h
  | roundTimerExpiry => exact healthOk_of_stations (roundTimerExpires_stations s) h
  | intervalTimerExpiry => exact healthOk_of_stations (intervalExpires_stations s) h
  | startBitEdge => exact healthOk_of_stations (fallingEdge_stations s) h
  | startBitConfirmation low => exact healthOk_of_stations (confirmStartBit_stations low s) h
  | rxdSeenHigh => exact healthOk_of_stations (seenHigh_stations s) h

/-- Settles O56: reset is within the bounds, and the effect of every row keeps them. -/
theorem healthBoundsAreKept : Obligations.HealthBoundsAreKept :=
  ⟨reset_healthOk, fun _ _ h hs => step_keeps (P := State.healthOk) rowEffect_healthOk (fun _ _ h => h) h hs⟩

end Sys2Proof.Machine
end

section
/-! SUPPORT. ENABLE, DISABLE and the write to STCFG: the host's access to an entry of the station table. -/

namespace Sys2Proof.Machine

/-! ### Commands with a station number -/

/-- R171: a command whose argument is in range acts on the station it names. -/
theorem withStation_of_eq {f : StationId → State → State × ResultCode} {s : State} {n : StationId}
    (h : s.host.cmdarg.toNat = n.val + 1) : withStation f s = f n s := by
  simp [withStation, stationOfByte?_of_eq h]

theorem exec_enable {s : State} {n : StationId} (hr : s.inReset = false) (hn : s.host.cmdarg.toNat = n.val + 1) :
    exec .enable s = .next ((enableStation n s).1.setCmdres (enableStation n s).2) := by
  rw [← withStation_of_eq (f := enableStation) hn, exec_eq_hostAccess rfl, hostAccess_of_released _ hr]
  rfl

theorem exec_disable {s : State} {n : StationId} (hr : s.inReset = false) (hn : s.host.cmdarg.toNat = n.val + 1) :
    exec .disable s = .next ((disableStation n s).1.setCmdres (disableStation n s).2) := by
  rw [← withStation_of_eq (f := disableStation) hn, exec_eq_hostAccess rfl, hostAccess_of_released _ hr]
  rfl

/-! ### ENABLE and DISABLE, by the state of the entry -/

theorem enableStation_of_unused {s : State} {n : StationId} (h : (s.station n).state = .unused) :
    enableStation n s = (s.setStation n (s.station n).enable, .ok) := if_pos h

theorem enableStation_of_used {s : State} {n : StationId} (h : (s.station n).state ≠ .unused) :
    enableStation n s = (s, .wrongState) := if_neg h

theorem disableStation_of_unused {s : State} {n : StationId} (h : (s.station n).state = .unused) :
    disableStation n s = (s, .ok) := if_pos h

theorem disableStation_of_idle {s : State} {n : StationId} (h : (s.station n).state ≠ .unused)
    (idle : s.inFlightWith n = false) : disableStation n s = (afterRemoval (applyDisable n s.time.counter s), .ok) := by
  simp [disableStation, h, idle]

theorem disableStation_of_inFlight {s : State} {n : StationId} (h : (s.station n).state ≠ .unused)
    (flight : s.inFlightWith n = true) :
    disableStation n s = (s.setStation n { s.station n with disablePending := true }, .deferred) := by
  simp [disableStation, h, flight]

theorem inFlightWith_of_job {s : State} {n : StationId} {e : Exchange} (he : s.engine = some e)
    (hn : e.job.station? = some n) : s.inFlightWith n = true := by
  simp [State.inFlightWith, he, hn]

/-- What follows a removal does not look at CMDRES. -/
theorem afterRemoval_setCmdres (s : State) (r : ResultCode) :
    (afterRemoval s).setCmdres r = afterRemoval (s.setCmdres r) := by
  rw [State.setCmdres, afterRemoval_host, ← afterRemoval_setHost]
  rfl

/-- Settles O10: each command by the state of the entry and the exchange in flight. -/
theorem enableAndDisableCommands : Obligations.EnableAndDisableCommands := by
  refine ⟨fun s n hr hn => ⟨fun unused => ?_, fun used => ?_⟩,
    fun s n hr hn => ⟨fun unused => ?_, fun used idle => ?_⟩, fun s n e hr hn he hj used => ?_⟩
  · rw [exec_enable hr hn, enableStation_of_unused unused]
    rfl
  · rw [exec_enable hr hn, enableStation_of_used used]
    rfl
  · rw [exec_disable hr hn, disableStation_of_unused unused]
    rfl
  · rw [exec_disable hr hn, disableStation_of_idle used idle, afterRemoval_setCmdres, applyDisable_eq]
    rfl
  · rw [exec_disable hr hn, disableStation_of_inFlight used (inFlightWith_of_job he hj)]
    rfl

/-! ### STCFG -/

/-- R180: the byte of a class and a mode stands for both. -/
theorem stcfg?_of_fields (c : StationClass) (m : AttentionMode) : stcfg? (0#5 ++ m.bit ++ c.code) = some (c, m) := by
  cases c <;> cases m <;> decide

/-- R180: class 3, or any of bits 7-3 set, refuses the write whole. -/
theorem stcfg?_eq_none {v : Byte} (h : v.extractLsb' 0 2 = 3 ∨ v.extractLsb' 3 5 ≠ 0) : stcfg? v = none := by
  rcases h with class3 | high_bits
  · simp [stcfg?, class3]
  · exact if_pos high_bits

theorem writeStcfg_of_fields (c : StationClass) (m : AttentionMode) (s : State) :
    writeStcfg (0#5 ++ m.bit ++ c.code) s =
      s.setStation s.host.stasel ((s.station s.host.stasel).configure c m) := by
  simp only [writeStcfg, stcfg?_of_fields]

theorem writeStcfg_of_refused {v : Byte} (h : v.extractLsb' 0 2 = 3 ∨ v.extractLsb' 3 5 ≠ 0) (s : State) :
    writeStcfg v s = s.rejectWrite := by
  simp only [writeStcfg, stcfg?_eq_none h]

theorem exec_stcfg {s : State} (hr : s.inReset = false) (v : Byte) :
    exec (.classWrite v) s = .next (writeStcfg v s) ∧ exec (.attentionModeWrite v) s = .next (writeStcfg v s) := by
  rw [exec_eq_hostAccess rfl, exec_eq_hostAccess rfl, hostAccess_of_released _ hr, hostAccess_of_released _ hr]
  exact ⟨rfl, rfl⟩

/-- Settles O18: both rows are the one write to STCFG, by what its byte stands for. -/
theorem stationConfigurationWrites : Obligations.StationConfigurationWrites := by
  intro v s hr
  refine ⟨fun c m hv => ?_, fun hv => ?_⟩
  · subst hv
    have both := exec_stcfg hr (0#5 ++ m.bit ++ c.code)
    rw [writeStcfg_of_fields] at both
    exact both
  · have both := exec_stcfg hr v
    rw [writeStcfg_of_refused hv] at both
    exact both

end Sys2Proof.Machine
end

section
/-! SUPPORT. Step 1 of a report on an entry of the station table: the health arithmetic and its thresholds, the probes of
ABSENT and ISOLATED stations, and the records. -/

namespace Sys2Proof.Machine

/-! ### Step 1, by the transition it makes -/

@[simp] theorem setStation_self (s : State) (n : StationId) : s.setStation n (s.station n) = s := by
  simp [State.setStation, State.setStations, State.station]

section
variable {r : Report} {s : State} {n : StationId} {x : Station} (hn : r.job.station? = some n)
include hn

theorem stationStep_of_no_transition (h : (s.station n).report r = (x, none)) :
    stationStep r s = (s.setStation n x, none) := by
  simp [stationStep_eq hn, h]

theorem stationStep_of_transition {t : Transition} (h : (s.station n).report r = (x, some t))
    (ht : ¬(t = .isolated ∨ t = .lost)) :
    stationStep r s = ((s.setStation n x).offer (t.note n x r.endTime), some t) := by
  simp [stationStep_eq hn, h, State.handToScheduler, ht]

/-- R110: a station that is lost or isolated loses its round item. -/
theorem stationStep_of_removal {t : Transition} (h : (s.station n).report r = (x, some t))
    (ht : t = .isolated ∨ t = .lost) :
    stationStep r s = (((s.setStation n x).offer (t.note n x r.endTime)).removeRoundItem n, some t) := by
  simp [stationStep_eq hn, h, State.handToScheduler, ht]

theorem stationStep_of_unchanged (h : (s.station n).report r = (s.station n, none)) : stationStep r s = (s, none) := by
  rw [stationStep_of_no_transition hn h, setStation_self]

theorem stationStep_other {m : StationId} (hm : m ≠ n) : (stationStep r s).1.station m = s.station m := by
  rw [stationStep_station hn, if_neg hm.symm]

end

theorem stationStep_eq_update (r : Report) (s : State) :
    (stationStep r s).1 =
      { s with
        stations := (stationStep r s).1.stations
        notes := (stationStep r s).1.notes
        sched := (stationStep r s).1.sched } := by
  rw [stationStep_frame]

/-! ### The record of a sound outcome -/

section
variable (st : Station) (j : Job) (o : ExchangeOutcome) (p : Option Reply)

@[simp] theorem recorded_state : (st.recorded j o p).state = st.state := by
  unfold Station.recorded
  split <;> rfl

@[simp] theorem recorded_faultCounter : (st.recorded j o p).faultCounter = st.faultCounter := by
  unfold Station.recorded
  split <;> rfl

@[simp] theorem recorded_missCount : (st.recorded j o p).missCount = st.missCount := by
  unfold Station.recorded
  split <;> rfl

end

/-! ### The thresholds -/

section
variable {st : Station} {unsound : Bool}

theorem thresholds_degrades (h : st.state = .online) (hc : 24 ≤ st.faultCounter) :
    st.thresholds unsound = ({ st with state := .degraded }, some .degraded) := by
  simp [Station.thresholds, h, degradedAt, hc]

theorem thresholds_of_online (h : st.state = .online) (hc : st.faultCounter < 24) :
    st.thresholds unsound = (st, none) := by
  have below : ¬24 ≤ st.faultCounter := by omega
  simp [Station.thresholds, h, degradedAt, below]

theorem thresholds_isolates (h : st.state = .degraded) (hc : 48 ≤ st.faultCounter) :
    st.thresholds true = (st.isolate, some .isolated) := by
  simp [Station.thresholds, h, isolatedAt, hc]

theorem thresholds_recovers (h : st.state = .degraded) (hc : st.faultCounter < 16) :
    st.thresholds unsound = ({ st with state := .online }, some .healthy) := by
  have below : ¬48 ≤ st.faultCounter := by omega
  simp [Station.thresholds, h, isolatedAt, healthyBelow, hc, below]

theorem thresholds_of_degraded (h : st.state = .degraded) (hl : 16 ≤ st.faultCounter)
    (hu : unsound = true → st.faultCounter < 48) : st.thresholds unsound = (st, none) := by
  have not_below : ¬st.faultCounter < 16 := by omega
  cases unsound with
  | false => simp [Station.thresholds, h, healthyBelow, not_below]
  | true =>
    have not_isolated : ¬48 ≤ st.faultCounter := Nat.not_le.mpr (hu rfl)
    simp [Station.thresholds, h, isolatedAt, healthyBelow, not_below, not_isolated]

end

/-! ### The report of a station that is ONLINE or DEGRADED -/

section
variable {st : Station} {r : Report} (hs : st.state = .online ∨ st.state = .degraded)
include hs

theorem Station.report_of_served : st.report r = st.servedReport r := by
  rcases hs with h | h <;> simp [Station.report, h]

theorem Station.report_of_sound (ho : r.outcome = .good ∨ r.outcome = .busy ∨ r.outcome = .refused) :
    st.report r = (st.sound.recorded r.job r.outcome r.reply).thresholds false := by
  rw [Station.report_of_served hs]
  rcases ho with ho | ho | ho <;> simp [Station.servedReport, ho]

/-- R48: a sound outcome that takes a DEGRADED station below 16 makes it ONLINE. -/
theorem Station.report_recovers (hd : st.state = .degraded) (hc : st.faultCounter - 1 < 16)
    (ho : r.outcome = .good ∨ r.outcome = .busy ∨ r.outcome = .refused) :
    st.report r =
      ({ st.sound.recorded r.job r.outcome r.reply with state := .online }, some .healthy) := by
  rw [Station.report_of_sound hs ho, thresholds_recovers]
  · simpa [Station.sound] using hd
  · simpa [Station.sound] using hc

/-- R43: any other sound outcome makes no transition. -/
theorem Station.report_stays_sound (hb : st.countersBounded) (hc : ¬(st.state = .degraded ∧ st.faultCounter - 1 < 16))
    (ho : r.outcome = .good ∨ r.outcome = .busy ∨ r.outcome = .refused) :
    st.report r = (st.sound.recorded r.job r.outcome r.reply, none) := by
  rw [Station.report_of_sound hs ho]
  obtain ⟨-, hb⟩ := hb
  rcases hs with h | h <;> simp only [h] at hb hc
  · refine thresholds_of_online ?_ ?_
    · simpa [Station.sound] using h
    · simp [Station.sound]
      omega
  · refine thresholds_of_degraded ?_ ?_ (fun hu => by cases hu)
    · simpa [Station.sound] using h
    · simp [Station.sound] at hc ⊢
      omega

/-- R50: the fourth MISS in a row loses the station whatever its counter. -/
theorem Station.report_loses (ho : r.outcome = .miss) (hm : 3 ≤ st.missCount) : st.report r = (st.lose, some .lost) := by
  have fourth : 4 ≤ st.missCount + 1 := by omega
  simp [Station.report_of_served hs, Station.servedReport, ho, lostAt, fourth]

theorem Station.report_of_lineError_or_sent (ho : r.outcome = .lineError ∨ r.outcome = .sent) :
    st.report r = (st, none) := by
  rw [Station.report_of_served hs]
  rcases ho with ho | ho <;> simp [Station.servedReport, ho]

end

/-- R44: the counters after an unsound outcome that does not lose the station. -/
def Station.struck (st : Station) (o : ExchangeOutcome) : Station :=
  { st with
    faultCounter := st.faultCounter + 4, missCount := if o = .miss then st.missCount + 1 else 0 }

section
variable {st : Station} {r : Report} (hs : st.state = .online ∨ st.state = .degraded)
  (ho : r.outcome = .badReply ∨ (r.outcome = .miss ∧ st.missCount < 3))
include hs ho

theorem Station.report_of_unsound : st.report r = (st.struck r.outcome).thresholds true := by
  rw [Station.report_of_served hs]
  rcases ho with ho | ⟨ho, hm⟩
  · simp [Station.servedReport, ho, Station.struck, Station.raised, Station.answeredBadly, unsoundStep]
  · have not_fourth : ¬4 ≤ st.missCount + 1 := by omega
    simp [Station.servedReport, ho, lostAt, not_fourth, Station.struck, Station.raised, Station.missed, unsoundStep]

/-- R48: at 24 an ONLINE station becomes DEGRADED. -/
theorem Station.report_degrades (h : st.state = .online) (hc : 24 ≤ st.faultCounter + 4) :
    st.report r = ({ st.struck r.outcome with state := .degraded }, some .degraded) := by
  rw [Station.report_of_unsound hs ho]
  exact thresholds_degrades h hc

/-- R49: at 48 a DEGRADED station becomes ISOLATED. -/
theorem Station.report_isolates (h : st.state = .degraded) (hc : 48 ≤ st.faultCounter + 4) :
    st.report r = ((st.struck r.outcome).isolate, some .isolated) := by
  rw [Station.report_of_unsound hs ho]
  exact thresholds_isolates h hc

theorem Station.report_stays_unsound (hb : st.countersBounded) (h1 : ¬(st.state = .online ∧ 24 ≤ st.faultCounter + 4))
    (h2 : ¬(st.state = .degraded ∧ 48 ≤ st.faultCounter + 4)) : st.report r = (st.struck r.outcome, none) := by
  rw [Station.report_of_unsound hs ho]
  obtain ⟨-, hb⟩ := hb
  rcases hs with h | h <;> simp only [h, true_and] at hb h1 h2
  · exact thresholds_of_online h (by simp only [Station.struck]; omega)
  · exact thresholds_of_degraded h (by simp only [Station.struck]; omega) (fun _ => by simp only [Station.struck]; omega)

end

/-- Settles O45: each clause by the entry and the transition that the report gives there. -/
theorem healthOfAServedStation : Obligations.HealthOfAServedStation := by
  intro r s n hn hs hb
  refine ⟨fun sound => ?_, fun ⟨miss, fourth⟩ => ?_, fun unsound => ?_, fun quiet => ?_,
    fun m hm => stationStep_other hn hm, stationStep_eq_update r s⟩
  · by_cases recovers : (s.station n).state = .degraded ∧ (s.station n).faultCounter - 1 < 16
    · rw [stationStep_of_transition hn (Station.report_recovers hs recovers.1 recovers.2 sound) (by simp)]
      refine ⟨by simp [Station.sound], by simp [Station.sound], rfl, fun _ => ⟨by simp, rfl, rfl⟩,
        fun h => absurd recovers h⟩
    · rw [stationStep_of_no_transition hn (Station.report_stays_sound hs hb recovers sound)]
      exact ⟨by simp [Station.sound], by simp [Station.sound], rfl, fun h => absurd h recovers,
        fun _ => ⟨rfl, by simp [Station.sound], rfl⟩⟩
  · rw [stationStep_of_removal hn (Station.report_loses hs miss (by omega)) (Or.inr rfl)]
    rw [removeRoundItem_station, offer_station, setStation_station_same]
    exact ⟨rfl, rfl, rfl, rfl, rfl, rfl, rfl, rfl, ⟨rfl, rfl⟩, rfl⟩
  · by_cases degrades : (s.station n).state = .online ∧ 24 ≤ (s.station n).faultCounter + 4
    · rw [stationStep_of_transition hn (Station.report_degrades hs unsound degrades.1 degrades.2) (by simp)]
      rw [offer_station, setStation_station_same]
      exact ⟨rfl, rfl, fun _ => ⟨rfl, ⟨rfl, rfl⟩, rfl⟩, fun h => by simp [degrades.1] at h,
        fun h => absurd degrades h⟩
    · by_cases isolates : (s.station n).state = .degraded ∧ 48 ≤ (s.station n).faultCounter + 4
      · rw [stationStep_of_removal hn (Station.report_isolates hs unsound isolates.1 isolates.2) (Or.inl rfl)]
        rw [removeRoundItem_station, offer_station, setStation_station_same]
        exact ⟨rfl, rfl, fun h => absurd h degrades, fun _ => ⟨rfl, rfl, rfl, rfl, ⟨rfl, rfl⟩, rfl⟩,
          fun _ h => absurd isolates h⟩
      · rw [stationStep_of_no_transition hn (Station.report_stays_unsound hs unsound hb degrades isolates)]
        rw [setStation_station_same]
        exact ⟨rfl, rfl, fun h => absurd h degrades, fun h => absurd h isolates, fun _ _ => ⟨⟨rfl, rfl, rfl⟩, rfl⟩⟩
  · exact stationStep_of_unchanged hn (Station.report_of_lineError_or_sent hs quiet)

end Sys2Proof.Machine
end

section
/-! SUPPORT. Step 1 of a report: the probes of ABSENT and ISOLATED stations, and the record of a served station. -/

namespace Sys2Proof.Machine

/-! ### The report of an ABSENT or ISOLATED station -/

section
variable {st : Station} {r : Report} {purpose : ProbePurpose} {n : StationId} {p : Reply}

/-- R52: a GOOD probe finds an ABSENT station. -/
theorem Station.report_finds (h : st.state = .absent) (hj : r.job = .probe purpose n) (ho : r.outcome = .good)
    (hp : r.reply = some p) : st.report r = (st.find p, some .found) := by
  simp [Station.report, h, Station.absentReport, hj, ho, hp]

theorem Station.report_of_failed_probe (h : st.state = .absent) (ho : r.outcome ≠ .good) : st.report r = (st, none) := by
  simp [Station.report, h, Station.absentReport, ho]

/-- R51: a GOOD probe restores an ISOLATED station. -/
theorem Station.report_restores (h : st.state = .isolated) (hj : r.job = .probe purpose n) (ho : r.outcome = .good)
    (hp : r.reply = some p) : st.report r = (st.restore p, some .restored) := by
  simp [Station.report, h, Station.isolatedReport, hj, ho, hp]

theorem Station.report_of_isolated_miss (h : st.state = .isolated) (ho : r.outcome = .miss) (hm : st.missCount < 3) :
    st.report r = (st.missed, none) := by
  have not_fourth : ¬4 ≤ st.missCount + 1 := by omega
  simp [Station.report, h, Station.isolatedReport, ho, lostAt, not_fourth]

theorem Station.report_loses_isolated (h : st.state = .isolated) (ho : r.outcome = .miss) (hm : 3 ≤ st.missCount) :
    st.report r = (st.lose, some .lost) := by
  have fourth : 4 ≤ st.missCount + 1 := by omega
  simp [Station.report, h, Station.isolatedReport, ho, lostAt, fourth]

theorem Station.report_of_isolated_badReply (h : st.state = .isolated) (ho : r.outcome = .badReply) :
    st.report r = (st.answeredBadly, none) := by
  simp [Station.report, h, Station.isolatedReport, ho]

end

/-- Settles O46: each clause by the entry and the transition that the report gives there. -/
theorem probesOfAbsentAndIsolatedStations : Obligations.ProbesOfAbsentAndIsolatedStations := by
  intro r s n purpose hj
  have hn : r.job.station? = some n := by rw [hj]; rfl
  refine ⟨fun absent => ⟨fun p good reply => ?_, fun failed => ?_⟩,
    fun isolated => ⟨fun p good reply => ?_, fun miss few => ?_, fun miss fourth => ?_, fun bad => ?_, fun error => ?_⟩,
    fun m hm => stationStep_other hn hm, stationStep_eq_update r s⟩
  · rw [stationStep_of_transition hn (Station.report_finds absent hj good reply) (by simp), offer_station,
      setStation_station_same]
    exact ⟨rfl, ⟨rfl, rfl⟩, rfl⟩
  · exact stationStep_of_unchanged hn (Station.report_of_failed_probe absent failed)
  · rw [stationStep_of_transition hn (Station.report_restores isolated hj good reply) (by simp), offer_station,
      setStation_station_same]
    exact ⟨rfl, ⟨rfl, rfl⟩, rfl⟩
  · rw [stationStep_of_no_transition hn (Station.report_of_isolated_miss isolated miss few), setStation_station_same]
    exact ⟨rfl, rfl, rfl, rfl⟩
  · rw [stationStep_of_removal hn (Station.report_loses_isolated isolated miss fourth) (Or.inr rfl),
      removeRoundItem_station, offer_station, setStation_station_same]
    exact ⟨rfl, ⟨rfl, rfl⟩, rfl⟩
  · rw [stationStep_of_no_transition hn (Station.report_of_isolated_badReply isolated bad), setStation_station_same]
    exact ⟨rfl, rfl, rfl, rfl⟩
  · exact stationStep_of_unchanged hn (Station.report_of_lineError error _)

/-! ### The record of a station that is ONLINE or DEGRADED -/

/-- The thresholds move the state alone, unless they isolate the station. -/
theorem thresholds_cases (st : Station) (unsound : Bool) :
    (∃ x, (st.thresholds unsound).1 = { st with state := x }) ∨
      ((st.thresholds unsound).1 = st.isolate ∧ (st.thresholds unsound).2 = some .isolated) := by
  unfold Station.thresholds
  split
  · split
    · exact Or.inl ⟨_, rfl⟩
    · exact Or.inl ⟨_, rfl⟩
  · split
    · exact Or.inr ⟨rfl, rfl⟩
    · split
      · exact Or.inl ⟨_, rfl⟩
      · exact Or.inl ⟨_, rfl⟩
  all_goals exact Or.inl ⟨_, rfl⟩

/-- The fields of the record that no health arithmetic and no threshold touches (R43, R54, R55). -/
structure Station.SameRecord (a b : Station) : Prop where
  nextToggle : b.nextToggle = a.nextToggle
  resync : b.resync = a.resync
  stationType : b.stationType = a.stationType
  lastStatus : b.lastStatus = a.lastStatus

/-- The host's settings of an entry: class, mode and a DISABLE that waits. -/
structure Station.SameSettings (a b : Station) : Prop where
  cls : b.cls = a.cls
  mode : b.mode = a.mode
  disablePending : b.disablePending = a.disablePending

/-- The attention fields of an entry (R125). -/
structure Station.SameAttention (a b : Station) : Prop where
  latch : b.latch = a.latch
  attnCode : b.attnCode = a.attnCode
  ackPending : b.ackPending = a.ackPending

theorem recorded_of_unsound {st : Station} {j : Job} {o : ExchangeOutcome} {p : Option Reply} (hg : o ≠ .good)
    (hf : o ≠ .refused) : st.recorded j o p = st := by
  unfold Station.recorded
  split
  · contradiction
  · contradiction
  · contradiction
  · contradiction
  · rfl

theorem recorded_sound (st : Station) (j : Job) (o : ExchangeOutcome) (p : Option Reply) :
    (st.recorded j o p).SameRecord (st.sound.recorded j o p) ∧ st.SameSettings (st.sound.recorded j o p) ∧
      st.SameAttention (st.sound.recorded j o p) := by
  unfold Station.recorded
  split <;> exact ⟨⟨rfl, rfl, rfl, rfl⟩, ⟨rfl, rfl, rfl⟩, ⟨rfl, rfl, rfl⟩⟩

theorem thresholds_sameRecord {a y : Station} (unsound : Bool) (h : a.SameRecord y) :
    a.SameRecord (y.thresholds unsound).1 := by
  rcases thresholds_cases y unsound with ⟨x, e⟩ | ⟨e, -⟩ <;> rw [e]
  · exact ⟨h.nextToggle, h.resync, h.stationType, h.lastStatus⟩
  · exact ⟨h.nextToggle, h.resync, h.stationType, h.lastStatus⟩

theorem thresholds_sameSettings {a y : Station} (unsound : Bool) (h : a.SameSettings y) :
    a.SameSettings (y.thresholds unsound).1 := by
  rcases thresholds_cases y unsound with ⟨x, e⟩ | ⟨e, -⟩ <;> rw [e]
  · exact ⟨h.cls, h.mode, h.disablePending⟩
  · exact ⟨h.cls, h.mode, h.disablePending⟩

theorem thresholds_sameAttention {a y : Station} {unsound : Bool} (h : a.SameAttention y)
    (not_isolated : (y.thresholds unsound).2 ≠ some .isolated) : a.SameAttention (y.thresholds unsound).1 := by
  rcases thresholds_cases y unsound with ⟨x, e⟩ | ⟨-, e⟩
  · rw [e]
    exact ⟨h.latch, h.attnCode, h.ackPending⟩
  · exact absurd e not_isolated

/-- R43 to R45: a report that does not lose the station is sound, unsound, or of no account to its health. -/
theorem outcome_kinds {o : ExchangeOutcome} {misses : Nat} (hl : ¬(o = .miss ∧ 3 ≤ misses)) :
    (o = .good ∨ o = .busy ∨ o = .refused) ∨ (o = .badReply ∨ (o = .miss ∧ misses < 3)) ∨
      (o = .lineError ∨ o = .sent) := by
  cases o with
  | miss => exact Or.inr (Or.inl (Or.inr ⟨rfl, Nat.not_le.mp fun h => hl ⟨rfl, h⟩⟩))
  | _ => simp

/-- What the thresholds find of a served station that its report does not lose: the arithmetic has left the record of
the outcome, and has not touched the settings and the attention fields. -/
theorem Station.report_before_thresholds {st : Station} {r : Report}
    (hs : st.state = .online ∨ st.state = .degraded) (hl : ¬(r.outcome = .miss ∧ 3 ≤ st.missCount)) :
    ∃ y, (st.report r = (y, none) ∨ ∃ unsound, st.report r = y.thresholds unsound) ∧
      (st.recorded r.job r.outcome r.reply).SameRecord y ∧ st.SameSettings y ∧ st.SameAttention y := by
  rcases outcome_kinds hl with sound | unsound | quiet
  · exact ⟨_, Or.inr ⟨false, Station.report_of_sound hs sound⟩, recorded_sound st r.job r.outcome r.reply⟩
  · have no_record : st.recorded r.job r.outcome r.reply = st := by
      apply recorded_of_unsound <;> rcases unsound with ho | ⟨ho, -⟩ <;> simp [ho]
    rw [no_record]
    exact ⟨_, Or.inr ⟨true, Station.report_of_unsound hs unsound⟩, ⟨rfl, rfl, rfl, rfl⟩, ⟨rfl, rfl, rfl⟩,
      ⟨rfl, rfl, rfl⟩⟩
  · have no_record : st.recorded r.job r.outcome r.reply = st := by
      apply recorded_of_unsound <;> rcases quiet with ho | ho <;> simp [ho]
    rw [no_record]
    exact ⟨st, Or.inl (Station.report_of_lineError_or_sent hs quiet), ⟨rfl, rfl, rfl, rfl⟩, ⟨rfl, rfl, rfl⟩,
      ⟨rfl, rfl, rfl⟩⟩

section
variable {st : Station} {r : Report} (hs : st.state = .online ∨ st.state = .degraded)
include hs

theorem Station.report_record (hl : ¬(r.outcome = .miss ∧ 3 ≤ st.missCount)) :
    (st.recorded r.job r.outcome r.reply).SameRecord (st.report r).1 := by
  obtain ⟨y, e | ⟨unsound, e⟩, record, -, -⟩ := Station.report_before_thresholds hs hl <;> rw [e]
  · exact record
  · exact thresholds_sameRecord unsound record

theorem Station.report_settings : st.SameSettings (st.report r).1 := by
  by_cases hl : r.outcome = .miss ∧ 3 ≤ st.missCount
  · rw [Station.report_loses hs hl.1 hl.2]
    exact ⟨rfl, rfl, rfl⟩
  · obtain ⟨y, e | ⟨unsound, e⟩, -, settings, -⟩ := Station.report_before_thresholds hs hl <;> rw [e]
    · exact settings
    · exact thresholds_sameSettings unsound settings

theorem Station.report_attention (not_lost : (st.report r).2 ≠ some .lost)
    (not_isolated : (st.report r).2 ≠ some .isolated) : st.SameAttention (st.report r).1 := by
  by_cases hl : r.outcome = .miss ∧ 3 ≤ st.missCount
  · rw [Station.report_loses hs hl.1 hl.2] at not_lost
    exact absurd rfl not_lost
  · obtain ⟨y, e | ⟨unsound, e⟩, -, -, attention⟩ := Station.report_before_thresholds hs hl
    · rw [e]
      exact attention
    · rw [e] at not_isolated ⊢
      exact thresholds_sameAttention attention not_isolated

end

/-! ### What an outcome records -/

/-- R54: a request flips the next toggle on GOOD and REFUSED, and leaves the other records. -/
theorem recorded_request (st : Station) (i : SlotId) (k : SlotKind) (n : StationId) (sent : Bool)
    (o : ExchangeOutcome) (p : Option Reply) :
    st.recorded (.request i k n sent) o p =
      { st with nextToggle := if o = .good ∨ o = .refused then !st.nextToggle else st.nextToggle } := by
  cases o <;> rfl

/-- R43: a poll records the status byte of a GOOD reply. -/
theorem recorded_poll (st : Station) (n : StationId) (o : ExchangeOutcome) (p : Option Reply) :
    (∃ q, o = .good ∧ p = some q ∧ st.recorded (.poll n) o p = { st with lastStatus := q.firstByte }) ∨
      (¬(o = .good ∧ p.isSome = true) ∧ st.recorded (.poll n) o p = st) := by
  cases o with
  | good =>
    cases p with
    | none => exact Or.inr ⟨by simp, rfl⟩
    | some q => exact Or.inl ⟨q, rfl, rfl, rfl⟩
  | _ => exact Or.inr ⟨by simp, rfl⟩

theorem recorded_attnAck (st : Station) (n : StationId) (o : ExchangeOutcome) (p : Option Reply) :
    st.recorded (.attnAck n) o p = st := by
  cases o <;> rfl

theorem recorded_probe_of_not_good (st : Station) (purpose : ProbePurpose) (n : StationId) {o : ExchangeOutcome}
    (h : o ≠ .good) (p : Option Reply) : st.recorded (.probe purpose n) o p = st := by
  cases o with
  | good => exact absurd rfl h
  | _ => rfl

theorem job_of_station {j : Job} {n : StationId} (h : j.station? = some n) :
    (∃ purpose, j = .probe purpose n) ∨ j = .poll n ∨ j = .attnAck n ∨ ∃ i k sent, j = .request i k n sent := by
  cases j with
  | timeMark => cases h
  | probe purpose m => exact Or.inl ⟨purpose, congrArg _ (Option.some.inj h)⟩
  | poll m => exact Or.inr (Or.inl (congrArg _ (Option.some.inj h)))
  | attnAck m => exact Or.inr (Or.inr (Or.inl (congrArg _ (Option.some.inj h))))
  | request i k m sent => exact Or.inr (Or.inr (Or.inr ⟨i, k, sent, by rw [Option.some.inj h]⟩))

/-- R55: only a GOOD probe records the type and clears the resync flag. -/
theorem recorded_type_resync {j : Job} {n : StationId} (hn : j.station? = some n) {o : ExchangeOutcome}
    (h : ∀ purpose, j = .probe purpose n → o ≠ .good) (st : Station) (p : Option Reply) :
    (st.recorded j o p).stationType = st.stationType ∧ (st.recorded j o p).resync = st.resync := by
  rcases job_of_station hn with ⟨purpose, rfl⟩ | rfl | rfl | ⟨i, k, sent, rfl⟩
  · rw [recorded_probe_of_not_good st purpose n (h purpose rfl)]
    exact ⟨rfl, rfl⟩
  · rcases recorded_poll st n o p with ⟨q, -, -, e⟩ | ⟨-, e⟩ <;> rw [e] <;> exact ⟨rfl, rfl⟩
  · rw [recorded_attnAck]
    exact ⟨rfl, rfl⟩
  · rw [recorded_request]
    exact ⟨rfl, rfl⟩

/-- R43: only a GOOD poll records the status byte. -/
theorem recorded_lastStatus {j : Job} {n : StationId} (hn : j.station? = some n) {o : ExchangeOutcome}
    (h : j ≠ .poll n ∨ o ≠ .good) (st : Station) (p : Option Reply) :
    (st.recorded j o p).lastStatus = st.lastStatus := by
  rcases job_of_station hn with ⟨purpose, rfl⟩ | rfl | rfl | ⟨i, k, sent, rfl⟩
  · cases o with
    | good => cases p <;> rfl
    | _ => rfl
  · rcases recorded_poll st n o p with ⟨q, good, -, -⟩ | ⟨-, e⟩
    · exact absurd good (h.resolve_left fun ne => ne rfl)
    · rw [e]
  · rw [recorded_attnAck]
  · rw [recorded_request]

/-- Settles O47: the record of the outcome where the station is not lost, the entry of a lost one where it is. -/
theorem recordsOfAServedStation : Obligations.RecordsOfAServedStation := by
  intro r s n hn hs
  have entry : (stationStep r s).1.station n = ((s.station n).report r).1 := by
    rw [stationStep_station hn, if_pos rfl]
  have settings := Station.report_settings (r := r) hs
  refine ⟨fun lost => ?_, fun i k sent hj kept => ?_, fun hj kept => ?_, fun purpose hj => ⟨fun p good reply => ?_,
    fun not_good kept => ?_⟩, fun no_probe => ⟨?_, fun kept => ?_⟩, fun p hj good reply => ?_, fun no_poll => ?_,
    fun not_lost not_isolated => ?_, ?_, ?_, ?_⟩
  · rw [entry, Station.report_loses hs lost.1 lost.2]
    exact ⟨rfl, rfl⟩
  · have toggle := (Station.report_record hs kept).nextToggle
    rw [hj, recorded_request] at toggle
    rw [entry]
    exact ⟨fun flips => toggle.trans (if_pos flips), fun h1 h2 => toggle.trans (if_neg (not_or.mpr ⟨h1, h2⟩))⟩
  · rw [entry, (Station.report_record hs kept).nextToggle]
    rcases hj with hj | hj <;> rw [hj]
    · rcases recorded_poll (s.station n) n r.outcome r.reply with ⟨q, -, -, e⟩ | ⟨-, e⟩ <;> rw [e]
    · rw [recorded_attnAck]
  · have record := Station.report_record hs (r := r) (by simp [good])
    rw [hj, good, reply] at record
    rw [entry]
    exact ⟨record.nextToggle, record.resync, record.stationType⟩
  · rw [entry, (Station.report_record hs kept).nextToggle, hj, recorded_probe_of_not_good _ _ _ not_good]
  · rw [entry]
    by_cases lost : r.outcome = .miss ∧ 3 ≤ (s.station n).missCount
    · rw [Station.report_loses hs lost.1 lost.2]
      rfl
    · rw [(Station.report_record hs lost).stationType, (recorded_type_resync hn no_probe _ _).1]
  · rw [entry, (Station.report_record hs kept).resync, (recorded_type_resync hn no_probe _ _).2]
  · have record := Station.report_record hs (r := r) (by simp [good])
    rw [hj, good, reply] at record
    rw [entry]
    exact record.lastStatus
  · rw [entry]
    by_cases lost : r.outcome = .miss ∧ 3 ≤ (s.station n).missCount
    · rw [Station.report_loses hs lost.1 lost.2]
      rfl
    · rw [(Station.report_record hs lost).lastStatus, recorded_lastStatus hn no_poll]
  · rw [stationStep_transition hn] at not_lost not_isolated
    have attention := Station.report_attention hs not_lost not_isolated
    rw [entry]
    exact ⟨attention.latch, attention.attnCode, attention.ackPending⟩
  · rw [entry]
    exact settings.cls
  · rw [entry]
    exact settings.mode
  · rw [entry]
    exact settings.disablePending

end Sys2Proof.Machine
end

section
/-! SUPPORT. Step 4 of a report: what a DISABLE leaves of the slots and of the service list, and the entry and the slots
of its station after the whole report. -/

namespace Sys2Proof.Machine

/-! ### The slots after a DISABLE -/

theorem applyDisable_slot (n : StationId) (t : Stamp) (s : State) (i : SlotId) :
    (applyDisable n t s).slot i =
      if (s.slot i).station = address n ∧ ((s.slot i).state = .queued ∨ (s.slot i).state = .waiting) then
        { s.slot i with state := .failed, outcome := .stationDisabled, backoff := none, finishTime := t }
      else s.slot i := by
  rw [applyDisable_eq]
  exact mapVec_getElem _ s.slots i.val i.isLt

theorem mem_applyDisable_service (n : StationId) (t : Stamp) (s : State) (i : SlotId) :
    i ∈ (applyDisable n t s).service ↔
      i ∈ s.service ∧
        ¬((s.slot i).station = address n ∧ ((s.slot i).state = .queued ∨ (s.slot i).state = .waiting)) := by
  rw [applyDisable_eq]
  simp only [List.mem_filter, decide_eq_true_eq]

/-- R59: no slot for a disabled station is QUEUED or WAITING. -/
theorem applyDisable_not_waiting (n : StationId) (t : Stamp) (s : State) (i : SlotId)
    (h : ((applyDisable n t s).slot i).station = address n) :
    ((applyDisable n t s).slot i).state ≠ .queued ∧ ((applyDisable n t s).slot i).state ≠ .waiting := by
  rw [applyDisable_slot] at h ⊢
  split at h
  · next hit =>
    rw [if_pos hit]
    exact ⟨by simp, by simp⟩
  · next miss =>
    rw [if_neg miss]
    exact ⟨fun queued => miss ⟨h, Or.inl queued⟩, fun waiting => miss ⟨h, Or.inr waiting⟩⟩

/-! ### Step 4 -/

theorem disableStep_of_pending {r : Report} {s : State} {n : StationId} (hn : r.job.station? = some n)
    (hp : (s.station n).disablePending = true) : disableStep r s = applyDisable n r.endTime s := by
  simp [disableStep, hn, hp]

theorem disableStep_of_none_pending {r : Report} {s : State}
    (h : ∀ n, r.job.station? = some n → (s.station n).disablePending = false) : disableStep r s = s := by
  rcases disableStep_cases r s with e | ⟨n, hn, pending, -⟩
  · exact e
  · simp [h n hn] at pending

/-! ### Steps 1 to 3 on the settings of an entry -/

/-- No report of step 1 touches class, mode or a DISABLE that waits, whatever the state of the entry. -/
theorem Station.report_sameSettings (st : Station) (r : Report) : st.SameSettings (st.report r).1 := by
  cases h : st.state with
  | unused =>
    simp only [Station.report, h]
    exact ⟨rfl, rfl, rfl⟩
  | absent =>
    simp only [Station.report, h]
    unfold Station.absentReport
    split <;> exact ⟨rfl, rfl, rfl⟩
  | isolated =>
    simp only [Station.report, h]
    unfold Station.isolatedReport
    split
    · exact ⟨rfl, rfl, rfl⟩
    · split <;> exact ⟨rfl, rfl, rfl⟩
    · exact ⟨rfl, rfl, rfl⟩
    · exact ⟨rfl, rfl, rfl⟩
  | online => exact Station.report_settings (Or.inl h)
  | degraded => exact Station.report_settings (Or.inr h)

theorem afterSlots_sameSettings {r : Report} {s : State} {n : StationId} (hn : r.job.station? = some n) :
    (s.station n).SameSettings ((afterSlots r s).station n) := by
  have first : (stationStep r (s.setEngine none)).1.station n = ((s.station n).report r).1 := by
    rw [stationStep_station hn, if_pos rfl, setEngine_station]
  obtain ⟨l, c, a, second⟩ := attentionStep_entry r (stationStep r (s.setEngine none)).1 n
  have settings := Station.report_sameSettings (s.station n) r
  unfold afterSlots
  rcases slotStep_station r (stationStep r (s.setEngine none)).2
    (attentionStep r (stationStep r (s.setEngine none)).1) n with third | ⟨-, third⟩ <;> rw [third, second, first]
  · exact ⟨settings.cls, settings.mode, settings.disablePending⟩
  · exact ⟨settings.cls, settings.mode, settings.disablePending⟩

/-! ### The whole report -/

/-- R60: a DISABLE that waits is applied after the first three steps. -/
theorem afterDisable_of_pending {r : Report} {s : State} {n : StationId} (hn : r.job.station? = some n)
    (hp : (s.station n).disablePending = true) : afterDisable r s = applyDisable n r.endTime (afterSlots r s) := by
  rw [afterDisable, disableStep_of_pending hn ((afterSlots_sameSettings hn).disablePending.trans hp)]

/-- Step 5 leaves a slot as it was, or fails it. -/
theorem linkStep_slot_cases (r : Report) (s : State) (i : SlotId) :
    (linkStep r s).slot i = s.slot i ∨ ((linkStep r s).slot i).state = .failed := by
  rcases linkStep_cases r s with ⟨-, -, e⟩ | ⟨-, -, e⟩ | ⟨-, -, e⟩ | ⟨-, e⟩ | ⟨-, e⟩ <;> rw [e]
  · exact Or.inl rfl
  · exact Or.inl rfl
  · exact Or.inl rfl
  · rcases failSlots_state (fun _ => true) .stopped r.endTime
      (((s.setLink { s.link with lineErrors := countAfter s.link.lineErrors r.outcome }).setLinkState
        .stopped).setLinkFlag) i with ⟨same, -⟩ | ⟨-, failed, -⟩
    · exact Or.inl same
    · exact Or.inr failed
  · exact Or.inl rfl

/-- Step 6 and what follows it leave the slots as step 5 left them. -/
theorem takeReport_slot (r : Report) (s : State) (i : SlotId) :
    (takeReport r s).slot i = (linkStep r (afterDisable r s)).slot i := by
  rw [takeReport_eq, afterRemoval_slot, leaveList_slot, timeStep_slot]
  rfl

/-- Settles O53: step 4 by the laws of the DISABLE, and the whole report by what steps 1 to 3 keep of the settings and
step 5 makes of the slots. -/
theorem deferredDisableIsApplied : Obligations.DeferredDisableIsApplied := by
  refine ⟨fun r s => ⟨disableStep_of_none_pending, fun n hn pending => ?_⟩, fun r s n hn pending => ?_⟩
  · rw [disableStep_of_pending hn pending]
    refine ⟨rfl, fun m hm => ?_, rfl, fun i hit => ⟨?_, fun stays => ?_⟩, fun i miss => ⟨?_, ?_⟩⟩
    · rw [applyDisable_station, if_neg hm.symm]
    · rw [applyDisable_slot, if_pos hit]
    · exact ((mem_applyDisable_service n r.endTime s i).mp stays).2 hit
    · rw [applyDisable_slot, if_neg miss]
    · exact (mem_applyDisable_service n r.endTime s i).trans (and_iff_left miss)
  · have entry : (takeReport r s).station n = ((afterSlots r s).station n).disable := by
      rw [takeReport_station, afterDisable_of_pending hn pending, applyDisable_station, if_pos rfl]
    have settings := afterSlots_sameSettings (s := s) hn
    dsimp only
    rw [entry]
    refine ⟨rfl, rfl, rfl, rfl, rfl, rfl, rfl, rfl, rfl, settings.cls, settings.mode, fun i hi => ?_⟩
    rw [takeReport_slot] at hi ⊢
    rcases linkStep_slot_cases r (afterDisable r s) i with same | failed
    · rw [same, afterDisable_of_pending hn pending] at hi ⊢
      exact applyDisable_not_waiting n r.endTime _ i hi
    · rw [failed]
      exact ⟨by simp, by simp⟩

end Sys2Proof.Machine
end

section
/-! SUPPORT. Step 3 of a report on its ACTIVE slot: the result of the outcome, and what stands of it when nothing
overrides it. -/

namespace Sys2Proof.Machine

/-! ### The result of an outcome (R78, items 1 and 2) -/

/-- R78: the attempts after an exchange; the count stops at 255. -/
def attemptsAfter (attempts : Byte) (whole : Bool) : Byte :=
  if whole = true then (if attempts.toNat < 255 then attempts + 1 else attempts) else attempts

theorem countAttempt_eq (sl : Slot) (whole : Bool) :
    sl.countAttempt whole = { sl with attempts := attemptsAfter sl.attempts whole } := by
  have full : sl.attempts = 255 ↔ ¬sl.attempts.toNat < 255 := by
    have := sl.attempts.isLt
    rw [← BitVec.toNat_inj]
    simp
    omega
  unfold Slot.countAttempt attemptsAfter
  split
  · by_cases h : sl.attempts.toNat < 255
    · rw [if_neg (full.not.mpr (not_not.mpr h)), if_pos h]
    · rw [if_pos (full.mpr h), if_neg h, full.mpr h]
  · rfl

/-- The slot as the outcome leaves it, before anything overrides the result. -/
def Slot.result (sl : Slot) (c : TimingConfig) (r : Report) : Slot := (sl.countAttempt r.frameWhole).applyOutcome c r

/-- R78, R81, R83: the slot with its attempts, its failure count and its busy count as the outcome moves them. -/
def Slot.tallied (sl : Slot) (c : TimingConfig) (r : Report) : Slot :=
  { sl with
    attempts := attemptsAfter sl.attempts r.frameWhole
    failCount :=
      if (r.outcome = .miss ∨ r.outcome = .badReply) ∧ ¬c.retry.toNat ≤ sl.failCount then sl.failCount + 1
      else sl.failCount
    busyCount :=
      if r.outcome = .busy ∧ sl.busyCount < c.busylim.toNat then sl.busyCount + 1 else sl.busyCount }

section
variable (sl : Slot) {c : TimingConfig} {r : Report}

/-- R83: a failed attempt with retries left. -/
theorem tallied_of_retry (ho : r.outcome = .miss ∨ r.outcome = .badReply) (h : sl.failCount < c.retry.toNat) :
    sl.tallied c r =
      { sl with attempts := attemptsAfter sl.attempts r.frameWhole, failCount := sl.failCount + 1 } := by
  rcases ho with ho | ho <;> simp [Slot.tallied, ho, h]

/-- R81: a BUSY reply below the limit. -/
theorem tallied_of_waits (ho : r.outcome = .busy) (h : sl.busyCount < c.busylim.toNat) :
    sl.tallied c r =
      { sl with attempts := attemptsAfter sl.attempts r.frameWhole, busyCount := sl.busyCount + 1 } := by
  simp [Slot.tallied, ho, h]

theorem tallied_of_neither (hf : ¬((r.outcome = .miss ∨ r.outcome = .badReply) ∧ sl.failCount < c.retry.toNat))
    (hb : ¬(r.outcome = .busy ∧ sl.busyCount < c.busylim.toNat)) :
    sl.tallied c r = { sl with attempts := attemptsAfter sl.attempts r.frameWhole } := by
  rw [Slot.tallied, if_neg hb, if_neg (by rwa [Nat.not_le])]

/-- R79. -/
theorem result_of_good {p : Reply} (ho : r.outcome = .good) (hp : r.reply = some p) :
    sl.result c r =
      { sl.tallied c r with
        state := .done, outcome := .ok, replyKind := p.kind.slotKind, replyLen := p.payload.length
        replyBytes := storeReply sl.replyBytes p.payload } := by
  rw [tallied_of_neither sl (by simp [ho]) (by simp [ho])]
  simp [Slot.result, countAttempt_eq, Slot.applyOutcome, ho, hp, Slot.complete]

/-- R80. -/
theorem result_of_refused {p : Reply} (ho : r.outcome = .refused) (hp : r.reply = some p) :
    sl.result c r = { (sl.tallied c r).fail .refused with reason := p.firstByte } := by
  rw [tallied_of_neither sl (by simp [ho]) (by simp [ho])]
  simp [Slot.result, countAttempt_eq, Slot.applyOutcome, ho, hp, Slot.refuse]

/-- R81, R82. -/
theorem result_of_waits (ho : r.outcome = .busy) (h : sl.busyCount < c.busylim.toNat) :
    sl.result c r = { sl.tallied c r with state := .waiting, backoff := some (r.decidedAt + c.backoffTime) } := by
  rw [tallied_of_waits sl ho h]
  simp [Slot.result, countAttempt_eq, Slot.applyOutcome, ho, Slot.busy, h]

theorem result_of_busyLimit (ho : r.outcome = .busy) (h : ¬sl.busyCount < c.busylim.toNat) :
    sl.result c r = (sl.tallied c r).fail .busyLimit := by
  rw [tallied_of_neither sl (by simp [ho]) (fun hb => h hb.2)]
  simp [Slot.result, countAttempt_eq, Slot.applyOutcome, ho, Slot.busy, h]

/-- R83. -/
theorem result_of_retry (ho : r.outcome = .miss ∨ r.outcome = .badReply) (h : sl.failCount < c.retry.toNat) :
    sl.result c r = (sl.tallied c r).requeue := by
  rw [tallied_of_retry sl ho h]
  rcases ho with ho | ho <;> simp [Slot.result, countAttempt_eq, Slot.applyOutcome, ho, Slot.retry, h, Slot.requeue]

theorem result_of_spent (ho : r.outcome = .miss ∨ r.outcome = .badReply) (h : c.retry.toNat ≤ sl.failCount) :
    sl.result c r = (sl.tallied c r).fail (if r.outcome = .miss then .noReply else .badReply) := by
  have none_left : ¬sl.failCount < c.retry.toNat := Nat.not_lt.mpr h
  have not_busy : ¬(r.outcome = .busy ∧ sl.busyCount < c.busylim.toNat) := by rcases ho with ho | ho <;> simp [ho]
  rw [tallied_of_neither sl (fun hf => none_left hf.2) not_busy]
  rcases ho with ho | ho <;> simp [Slot.result, countAttempt_eq, Slot.applyOutcome, ho, Slot.retry, none_left]

/-- R84. -/
theorem result_of_lineError (ho : r.outcome = .lineError) : sl.result c r = (sl.tallied c r).requeue := by
  rw [tallied_of_neither sl (by simp [ho]) (by simp [ho])]
  simp [Slot.result, countAttempt_eq, Slot.applyOutcome, ho]

end

/-! ### The overrides (R85, R86) and the stamp (R89) -/

theorem stamped_of_finished {sl : Slot} (h : sl.finished = true) (t : Stamp) :
    sl.stamped t = { sl with finishTime := t } := if_pos h

theorem stamped_of_unfinished {sl : Slot} (h : sl.finished = false) (t : Stamp) : sl.stamped t = sl := by
  simp [Slot.stamped, h]

theorem finished_of_exhausted {sl : Slot} (h : sl.exhausted = true) : sl.finished = true := by
  have failed : sl.state = .failed := by simp [Slot.exhausted] at h; exact h.1
  simp [Slot.finished, failed]

/-- R83: the two failures of a slot with its retries used up. -/
theorem fail_exhausted (sl : Slot) {o : ExchangeOutcome} (h : o = .miss ∨ o = .badReply) :
    (sl.fail (if o = .miss then .noReply else .badReply)).exhausted = true := by
  rcases h with rfl | rfl <;> rfl

theorem Slot.report_eq (sl : Slot) (c : TimingConfig) (r : Report) (t : Option Transition) (d p : Bool) :
    sl.report c r t d p = (((sl.result c r).overrideByStation t).overrideByHost d p).stamped r.endTime := rfl

theorem overrideByStation_of_kept (sl : Slot) {t : Option Transition} (hl : t ≠ some .lost)
    (hi : t ≠ some .isolated) : sl.overrideByStation t = sl := by
  simp [Slot.overrideByStation, hl, hi]

theorem overrideByHost_of_none (sl : Slot) : sl.overrideByHost false false = sl := by
  simp [Slot.overrideByHost]

/-- While nothing overrides the result, it is stamped when it is finished. -/
theorem Slot.report_of_no_override (sl : Slot) (c : TimingConfig) (r : Report) {t : Option Transition}
    (hl : t ≠ some .lost) (hi : t ≠ some .isolated) :
    sl.report c r t false false = (sl.result c r).stamped r.endTime := by
  rw [Slot.report_eq, overrideByStation_of_kept _ hl hi, overrideByHost_of_none]

/-! ### The mass failure (R87) -/

theorem massFailure_of_kept (n : StationId) {tr : Option Transition} (hl : tr ≠ some .lost) (hi : tr ≠ some .isolated)
    (t : Stamp) (s : State) : massFailure n tr t s = s := by
  unfold massFailure
  split
  · exact absurd rfl hl
  · exact absurd rfl hi
  all_goals rfl

/-! ### Step 3 of a request -/

theorem slotStep_of_request {r : Report} {i : SlotId} {k : SlotKind} {n : StationId} {sent : Bool}
    (hj : r.job = .request i k n sent) (tr : Option Transition) (s : State) :
    slotStep r tr s = massFailure n tr r.endTime (applyToSlot r tr i n s) := by
  simp [slotStep, hj, Job.station?]

section
variable {r : Report} {tr : Option Transition} {i : SlotId} {n : StationId} {s : State} {x : Slot}
  (hx : (s.slot i).report s.link.config r tr (s.station n).disablePending (s.link.state = .stopping) = x)
include hx

theorem applyToSlot_of_unfinished (hf : x.finished = false) : applyToSlot r tr i n s = s.setSlot i x := by
  have not_exhausted : x.exhausted ≠ true := fun h => by simp [finished_of_exhausted h] at hf
  simp [applyToSlot, hx, hf, not_exhausted]

theorem applyToSlot_of_finished (hf : x.finished = true) (he : x.exhausted = false) :
    applyToSlot r tr i n s = (s.setSlot i x).leaveService i := by
  simp [applyToSlot, hx, hf, he]

/-- R56: with the retries used up the station's resync flag is set. -/
theorem applyToSlot_of_exhausted (he : x.exhausted = true) :
    applyToSlot r tr i n s = ((s.setSlot i x).leaveService i).setResync n := by
  simp [applyToSlot, hx, finished_of_exhausted he, he]

end

section
variable {r : Report} {s : State} {i : SlotId} {k : SlotKind} {n : StationId} {sent : Bool} {tr : Option Transition}
  {x : Slot} (hj : r.job = .request i k n sent) (hl : tr ≠ some .lost) (hi : tr ≠ some .isolated)
  (hd : (s.station n).disablePending = false) (hp : s.link.state ≠ .stopping)
  (hx : (s.slot i).result s.link.config r = x)
include hl hi hd hp hx

theorem report_of_result :
    (s.slot i).report s.link.config r tr (s.station n).disablePending (s.link.state = .stopping) =
      x.stamped r.endTime := by
  rw [hd, decide_eq_false hp, Slot.report_of_no_override _ _ _ hl hi, hx]

include hj

/-- A result of QUEUED or WAITING stays in its place in the service list. -/
theorem slotStep_of_unfinished (hf : x.finished = false) : slotStep r tr s = s.setSlot i x := by
  rw [slotStep_of_request hj, massFailure_of_kept n hl hi]
  have stands := report_of_result hl hi hd hp hx
  rw [stamped_of_unfinished hf] at stands
  exact applyToSlot_of_unfinished stands hf

/-- R89: a result of DONE or FAILED is stamped and leaves the service list. -/
theorem slotStep_of_finished (hf : x.finished = true) (he : x.exhausted = false) :
    slotStep r tr s = (s.setSlot i { x with finishTime := r.endTime }).leaveService i := by
  rw [slotStep_of_request hj, massFailure_of_kept n hl hi]
  have stands := report_of_result hl hi hd hp hx
  rw [stamped_of_finished hf] at stands
  exact applyToSlot_of_finished stands hf he

theorem slotStep_of_exhausted (he : x.exhausted = true) :
    slotStep r tr s = ((s.setSlot i { x with finishTime := r.endTime }).leaveService i).setResync n := by
  rw [slotStep_of_request hj, massFailure_of_kept n hl hi]
  have stands := report_of_result hl hi hd hp hx
  rw [stamped_of_finished (finished_of_exhausted he)] at stands
  exact applyToSlot_of_exhausted stands he

end

/-- R79: the reply kind shown in a DONE slot. -/
theorem slotKind_eq (k : ReplyKind) : k.slotKind = if k = .data then .data else if k = .ack then .ack else .none := by
  cases k <;> rfl

/-- Settles O51: each outcome by its result, which is kept in service, finished, or finished with the retries used
up. -/
theorem activeSlotTakesTheOutcome : Obligations.ActiveSlotTakesTheOutcome := by
  intro r s i k n sent tr hj active hl hi hd hp
  refine ⟨fun p good reply => ?_, fun p refused reply => ?_, fun busy waits => ?_, fun busy limit => ?_,
    fun unsound retries => ?_, fun unsound spent => ?_, fun error => ?_⟩
  · have step := slotStep_of_finished hj hl hi hd hp (result_of_good _ good reply) rfl (by simp [Slot.exhausted])
    rw [tallied_of_neither _ (by simp [good]) (by simp [good]), slotKind_eq] at step
    exact step
  · have step := slotStep_of_finished hj hl hi hd hp (result_of_refused _ refused reply) rfl rfl
    rw [tallied_of_neither _ (by simp [refused]) (by simp [refused])] at step
    exact step
  · have step := slotStep_of_unfinished hj hl hi hd hp (result_of_waits _ busy waits) rfl
    rw [tallied_of_waits _ busy waits] at step
    exact step
  · have step := slotStep_of_finished hj hl hi hd hp (result_of_busyLimit _ busy (Nat.not_lt.mpr limit)) rfl rfl
    rw [tallied_of_neither _ (by simp [busy]) (fun h => absurd h.2 (Nat.not_lt.mpr limit))] at step
    exact step
  · have step := slotStep_of_unfinished hj hl hi hd hp (result_of_retry _ unsound retries) rfl
    rw [tallied_of_retry _ unsound retries] at step
    exact step
  · have step :=
      slotStep_of_exhausted hj hl hi hd hp (result_of_spent _ unsound spent) (fail_exhausted _ unsound)
    rw [tallied_of_neither _ (fun h => absurd h.2 (Nat.not_lt.mpr spent))
      (by rcases unsound with ho | ho <;> simp [ho])] at step
    exact step
  · have step := slotStep_of_unfinished hj hl hi hd hp (result_of_lineError _ error) rfl
    rw [tallied_of_neither _ (by simp [error]) (by simp [error])] at step
    exact step

end Sys2Proof.Machine
end

section
/-! SUPPORT. Step 3 of a report: what overrides the result of the ACTIVE slot, and the failure of the other slots of its
station. -/

namespace Sys2Proof.Machine

/-! ### The overrides of the result -/

section
variable (sl : Slot) (c : TimingConfig) (r : Report)

theorem overrideByHost_of_not_waiting {x : Slot} (h : x.waitingForService = false) (d p : Bool) :
    x.overrideByHost d p = x := by
  simp [Slot.overrideByHost, h]

theorem not_waiting_of_finished {x : Slot} (h : x.finished = true) : x.waitingForService = false := by
  unfold Slot.finished at h
  unfold Slot.waitingForService
  rcases (by simpa using h : x.state = .done ∨ x.state = .failed) with e | e <;> simp [e]

/-- R85: a retry, or a failure with the retries used up, of a station that its MISS has lost. -/
theorem Slot.report_of_lost (d p : Bool) (h : (sl.result c r).state = .queued ∨ (sl.result c r).exhausted = true) :
    sl.report c r (some .lost) d p = ((sl.result c r).fail .stationLost).stamped r.endTime := by
  rw [Slot.report_eq, Slot.overrideByStation, if_pos ⟨rfl, h⟩, overrideByHost_of_not_waiting rfl]

/-- R85: a retry of a station that has been isolated. -/
theorem Slot.report_of_isolated (d p : Bool) (h : (sl.result c r).state = .queued) :
    sl.report c r (some .isolated) d p = ((sl.result c r).fail .stationIsolated).stamped r.endTime := by
  rw [Slot.report_eq, Slot.overrideByStation, if_neg (by simp), if_pos ⟨rfl, h⟩, overrideByHost_of_not_waiting rfl]

/-- R85, R86: a finished result stands, unless its station is lost with the retries used up. -/
theorem Slot.report_of_finished {t : Option Transition} {y : Slot} (d p : Bool) (hy : sl.result c r = y)
    (hf : y.finished = true) (hl : ¬(t = some .lost ∧ y.exhausted = true)) :
    sl.report c r t d p = { y with finishTime := r.endTime } := by
  have not_queued : y.state ≠ .queued := fun h => by simp [Slot.finished, h] at hf
  have stands : y.overrideByStation t = y := by
    rw [Slot.overrideByStation, if_neg fun h => h.2.elim not_queued fun he => hl ⟨h.1, he⟩,
      if_neg fun h => not_queued h.2]
  rw [Slot.report_eq, hy, stands, overrideByHost_of_not_waiting (not_waiting_of_finished hf), stamped_of_finished hf]

/-- R86: a result of QUEUED or WAITING under disable-pending. -/
theorem Slot.report_of_disabled {t : Option Transition} (p : Bool) (hl : t ≠ some .lost) (hi : t ≠ some .isolated)
    (hw : (sl.result c r).waitingForService = true) :
    sl.report c r t true p = ((sl.result c r).fail .stationDisabled).stamped r.endTime := by
  rw [Slot.report_eq, overrideByStation_of_kept _ hl hi, Slot.overrideByHost, if_pos hw, if_pos rfl]

/-- R86: a result of QUEUED or WAITING while the link is STOPPING. -/
theorem Slot.report_of_stopping {t : Option Transition} (hl : t ≠ some .lost) (hi : t ≠ some .isolated)
    (hw : (sl.result c r).waitingForService = true) :
    sl.report c r t false true = ((sl.result c r).fail .stopped).stamped r.endTime := by
  rw [Slot.report_eq, overrideByStation_of_kept _ hl hi, Slot.overrideByHost, if_pos hw, if_neg (by simp), if_pos rfl]

/-- No override moves the busy count. -/
theorem Slot.report_busyCount (t : Option Transition) (d p : Bool) :
    (sl.report c r t d p).busyCount = (sl.result c r).busyCount := by
  have stamped (x : Slot) : (x.stamped r.endTime).busyCount = x.busyCount := by
    unfold Slot.stamped
    split <;> rfl
  rw [Slot.report_eq, stamped]
  rcases overrideByHost_cases ((sl.result c r).overrideByStation t) d p with e | ⟨o, e⟩ <;> rw [e] <;>
    rcases overrideByStation_cases (sl.result c r) t with e | ⟨o, e⟩ <;> rw [e] <;> rfl

theorem overrideByStation_exhausted {x : Slot} {t : Option Transition} (h : (x.overrideByStation t).exhausted = true) :
    x.exhausted = true := by
  unfold Slot.overrideByStation at h
  split at h
  · simp [Slot.fail, Slot.exhausted] at h
  · split at h
    · simp [Slot.fail, Slot.exhausted] at h
    · exact h

theorem overrideByHost_exhausted {x : Slot} {d p : Bool} (h : (x.overrideByHost d p).exhausted = true) :
    x.exhausted = true := by
  unfold Slot.overrideByHost at h
  split at h
  · split at h
    · simp [Slot.fail, Slot.exhausted] at h
    · split at h
      · simp [Slot.fail, Slot.exhausted] at h
      · exact h
  · exact h

/-- An override takes the exhausted mark away, and never sets it. -/
theorem Slot.report_exhausted_of_result {sl : Slot} {c : TimingConfig} {r : Report} {t : Option Transition} {d p : Bool}
    (h : (sl.report c r t d p).exhausted = true) : (sl.result c r).exhausted = true := by
  have stamped (x : Slot) : (x.stamped r.endTime).exhausted = x.exhausted := by
    unfold Slot.stamped
    split <;> rfl
  rw [Slot.report_eq, stamped] at h
  exact overrideByStation_exhausted (overrideByHost_exhausted h)

theorem exhausted_of_state {x : Slot} (h : x.state ≠ .failed) : x.exhausted = false := by
  simp [Slot.exhausted, h]

/-- R56: only a MISS or BADREPLY with the retries used up leaves an ACTIVE slot exhausted. -/
theorem Slot.result_not_exhausted {sl : Slot} (active : sl.state = .active)
    (h : ¬(r.outcome = .miss ∨ r.outcome = .badReply) ∨ ¬c.retry.toNat ≤ sl.failCount) :
    (sl.result c r).exhausted = false := by
  have retried (ho : r.outcome = .miss ∨ r.outcome = .badReply) : (sl.result c r).exhausted = false := by
    rw [result_of_retry sl ho (Nat.not_le.mp (h.resolve_left (not_not.mpr ho)))]
    exact exhausted_of_state (by simp [Slot.requeue])
  cases ho : r.outcome with
  | miss => exact retried (Or.inl ho)
  | badReply => exact retried (Or.inr ho)
  | lineError =>
    rw [result_of_lineError sl ho]
    exact exhausted_of_state (by simp [Slot.requeue])
  | busy =>
    by_cases hb : sl.busyCount < c.busylim.toNat
    · rw [result_of_waits sl ho hb]
      exact exhausted_of_state (by simp)
    · rw [result_of_busyLimit sl ho hb]
      rfl
  | good =>
    cases hp : r.reply with
    | some p =>
      rw [result_of_good sl ho hp]
      exact exhausted_of_state (by simp)
    | none =>
      refine exhausted_of_state ?_
      simp [Slot.result, countAttempt_eq, Slot.applyOutcome, ho, hp, active]
  | refused =>
    cases hp : r.reply with
    | some p =>
      rw [result_of_refused sl ho hp]
      rfl
    | none =>
      refine exhausted_of_state ?_
      simp [Slot.result, countAttempt_eq, Slot.applyOutcome, ho, hp, active]
  | sent =>
    refine exhausted_of_state ?_
    simp [Slot.result, countAttempt_eq, Slot.applyOutcome, ho, active]

/-- R83, R84, R81: a result of QUEUED or WAITING is in service, and a failure of it keeps the tally. -/
theorem Slot.result_of_open
    (h : (((r.outcome = .miss ∨ r.outcome = .badReply) ∧ ¬c.retry.toNat ≤ sl.failCount) ∨ r.outcome = .lineError) ∨
      (r.outcome = .busy ∧ sl.busyCount < c.busylim.toNat)) :
    (sl.result c r).waitingForService = true ∧ ∀ o, (sl.result c r).fail o = (sl.tallied c r).fail o := by
  rcases h with (⟨unsound, left⟩ | error) | ⟨busy, waits⟩
  · rw [result_of_retry sl unsound (Nat.not_le.mp left)]
    exact ⟨rfl, fun _ => rfl⟩
  · rw [result_of_lineError sl error]
    exact ⟨rfl, fun _ => rfl⟩
  · rw [result_of_waits sl busy waits]
    exact ⟨rfl, fun _ => rfl⟩

/-- R85: after a MISS the slot is QUEUED or exhausted, and a failure of it keeps the tally. -/
theorem Slot.result_of_unsound (ho : r.outcome = .miss ∨ r.outcome = .badReply) :
    ((sl.result c r).state = .queued ∨ (sl.result c r).exhausted = true) ∧
      ∀ o, (sl.result c r).fail o = (sl.tallied c r).fail o := by
  by_cases left : sl.failCount < c.retry.toNat
  · rw [result_of_retry sl ho left]
    exact ⟨Or.inl rfl, fun _ => rfl⟩
  · rw [result_of_spent sl ho (Nat.not_lt.mp left)]
    exact ⟨Or.inr (fail_exhausted _ ho), fun _ => rfl⟩

end

/-! ### The mass failure on the slots and the service list -/

/-- R87: a transition fails the slots of the station with its outcome, or nothing. -/
theorem massFailure_cases (n : StationId) (tr : Option Transition) (t : Stamp) (s : State) :
    (tr ≠ some .lost ∧ tr ≠ some .isolated ∧ massFailure n tr t s = s) ∨
      ∃ o, ((tr = some .lost ∧ o = .stationLost) ∨ (tr = some .isolated ∧ o = .stationIsolated)) ∧
        massFailure n tr t s = failStationSlots n o t s := by
  by_cases hl : tr = some .lost
  · exact Or.inr ⟨_, Or.inl ⟨hl, rfl⟩, by rw [hl]; rfl⟩
  · by_cases hi : tr = some .isolated
    · exact Or.inr ⟨_, Or.inr ⟨hi, rfl⟩, by rw [hi]; rfl⟩
    · exact Or.inl ⟨hl, hi, massFailure_of_kept n hl hi t s⟩

/-- The slots that a mass failure of station `n` fails. -/
def Slot.waitsFor (sl : Slot) (n : StationId) : Prop :=
  sl.station = address n ∧ (sl.state = .queued ∨ sl.state = .waiting)

theorem isFor_and_waiting_iff (sl : Slot) (n : StationId) :
    (sl.isFor n = true ∧ sl.waitingForService = true) ↔ sl.waitsFor n := by
  simp [Slot.isFor, Slot.waitingForService, Slot.waitsFor]

theorem failStationSlots_of_waits {n : StationId} {s : State} {j : SlotId} (h : (s.slot j).waitsFor n)
    (o : SlotOutcome) (t : Stamp) :
    (failStationSlots n o t s).slot j =
        { s.slot j with state := .failed, outcome := o, backoff := none, finishTime := t } ∧
      j ∉ (failStationSlots n o t s).service := by
  have hit := (isFor_and_waiting_iff _ _).mpr h
  constructor
  · rw [failStationSlots, failSlots_slot, if_pos hit, fail_stamped]
  · rw [failStationSlots, failSlots_service]
    simp [hit.1, hit.2]

theorem failStationSlots_of_not_waits {n : StationId} {s : State} {j : SlotId} (h : ¬(s.slot j).waitsFor n)
    (o : SlotOutcome) (t : Stamp) :
    (failStationSlots n o t s).slot j = s.slot j ∧ (j ∈ (failStationSlots n o t s).service ↔ j ∈ s.service) := by
  have miss := (isFor_and_waiting_iff _ _).not.mpr h
  constructor
  · rw [failStationSlots, failSlots_slot, if_neg miss]
  · rw [failStationSlots, failSlots_service, List.mem_filter]
    refine and_iff_left ?_
    rwa [Bool.not_eq_true', ← Bool.not_eq_true, Bool.and_eq_true]

theorem massFailure_of_not_waits {n : StationId} {s : State} {j : SlotId} (h : ¬(s.slot j).waitsFor n)
    (tr : Option Transition) (t : Stamp) :
    (massFailure n tr t s).slot j = s.slot j ∧ (j ∈ (massFailure n tr t s).service ↔ j ∈ s.service) := by
  rcases massFailure_cases n tr t s with ⟨-, -, e⟩ | ⟨o, -, e⟩ <;> rw [e]
  · exact ⟨rfl, Iff.rfl⟩
  · exact failStationSlots_of_not_waits h o t

theorem massFailure_service_sublist (n : StationId) (tr : Option Transition) (t : Stamp) (s : State) :
    (massFailure n tr t s).service.Sublist s.service := by
  rcases massFailure_cases n tr t s with ⟨-, -, e⟩ | ⟨o, -, e⟩ <;> rw [e]
  exact List.filter_sublist

theorem massFailure_busyCount (n : StationId) (tr : Option Transition) (t : Stamp) (s : State) (j : SlotId) :
    ((massFailure n tr t s).slot j).busyCount = (s.slot j).busyCount := by
  by_cases h : (s.slot j).waitsFor n
  · rcases massFailure_cases n tr t s with ⟨-, -, e⟩ | ⟨o, -, e⟩ <;> rw [e]
    rw [(failStationSlots_of_waits h o t).1]
  · rw [(massFailure_of_not_waits h tr t).1]

@[simp] theorem massFailure_station (n : StationId) (tr : Option Transition) (t : Stamp) (s : State) (m : StationId) :
    (massFailure n tr t s).station m = s.station m := by
  rw [massFailure_frame]
  rfl

/-! ### Step 3 of a request on the slots -/

theorem applyToSlot_service (r : Report) (tr : Option Transition) (i : SlotId) (n : StationId) (s : State) :
    (applyToSlot r tr i n s).service =
      if ((s.slot i).report s.link.config r tr (s.station n).disablePending (s.link.state = .stopping)).finished = true
      then s.service.filter (fun j => j ≠ i) else s.service := by
  unfold applyToSlot
  dsimp only
  split <;> split <;> rfl

theorem applyToSlot_service_sublist (r : Report) (tr : Option Transition) (i : SlotId) (n : StationId) (s : State) :
    (applyToSlot r tr i n s).service.Sublist s.service := by
  rw [applyToSlot_service]
  split
  · exact List.filter_sublist
  · exact List.Sublist.refl _

theorem mem_applyToSlot_service_other (r : Report) (tr : Option Transition) {i j : SlotId} (h : i ≠ j)
    (n : StationId) (s : State) : j ∈ (applyToSlot r tr i n s).service ↔ j ∈ s.service := by
  rw [applyToSlot_service]
  split
  · simp [h.symm]
  · exact Iff.rfl

section
variable {r : Report} {tr : Option Transition} {i : SlotId} {k : SlotKind} {n : StationId} {sent : Bool} {s : State}
  {x : Slot} (hj : r.job = .request i k n sent)
  (hx : (s.slot i).report s.link.config r tr (s.station n).disablePending (s.link.state = .stopping) = x)
include hj hx

/-- R89: a slot that the report has finished is out of service, and no mass failure touches it. -/
theorem slotStep_slot_of_finished (hf : x.finished = true) :
    (slotStep r tr s).slot i = x ∧ i ∉ (slotStep r tr s).service := by
  rw [slotStep_of_request hj]
  have taken : (applyToSlot r tr i n s).slot i = x := by rw [applyToSlot_slot, if_pos rfl, hx]
  have left : i ∉ (applyToSlot r tr i n s).service := by
    rw [applyToSlot_service, hx, if_pos hf]
    simp
  have not_waits : ¬((applyToSlot r tr i n s).slot i).waitsFor n := by
    rw [taken, ← isFor_and_waiting_iff, not_waiting_of_finished hf]
    simp
  obtain ⟨same, mem⟩ := massFailure_of_not_waits not_waits tr r.endTime
  exact ⟨same.trans taken, mem.not.mpr left⟩

theorem slotStep_station_of_request (m : StationId) :
    (slotStep r tr s).station m =
      if x.exhausted = true ∧ n = m then { s.station m with resync := true } else s.station m := by
  rw [slotStep_of_request hj, massFailure_station]
  by_cases he : x.exhausted = true
  · rw [applyToSlot_of_exhausted hx he, State.setResync, setStation_station]
    by_cases hm : n = m
    · rw [if_pos hm, if_pos ⟨he, hm⟩, hm]
      rfl
    · rw [if_neg hm, if_neg fun h => hm h.2]
      rfl
  · rw [if_neg fun h => he h.1]
    by_cases hf : x.finished = true
    · rw [applyToSlot_of_finished hx hf (Bool.eq_false_iff.mpr he)]
      rfl
    · rw [applyToSlot_of_unfinished hx (Bool.eq_false_iff.mpr hf)]
      rfl

end

/-- R85, R86: an ACTIVE slot whose result gives way to the outcome `o`. -/
theorem slotStep_of_override {r : Report} {tr : Option Transition} {i : SlotId} {k : SlotKind} {n : StationId}
    {sent : Bool} {s : State} {y : Slot} {o : SlotOutcome} (hj : r.job = .request i k n sent)
    (hx : (s.slot i).report s.link.config r tr (s.station n).disablePending (s.link.state = .stopping) =
      (y.fail o).stamped r.endTime)
    (hy : y.fail o = ((s.slot i).tallied s.link.config r).fail o) :
    (slotStep r tr s).slot i =
        { (s.slot i).tallied s.link.config r with
          state := .failed, outcome := o, backoff := none, finishTime := r.endTime } ∧
      i ∉ (slotStep r tr s).service := by
  rw [hy, fail_stamped] at hx
  exact slotStep_slot_of_finished hj hx rfl

/-- R85, R86, R89: an ACTIVE slot whose finished result stands. -/
theorem slotStep_of_standing {r : Report} {tr : Option Transition} {i : SlotId} {k : SlotKind} {n : StationId}
    {sent : Bool} {s : State} {y : Slot} (hj : r.job = .request i k n sent)
    (hy : (s.slot i).result s.link.config r = y) (hf : y.finished = true)
    (hl : ¬(tr = some .lost ∧ y.exhausted = true)) :
    (slotStep r tr s).slot i = { y with finishTime := r.endTime } ∧ i ∉ (slotStep r tr s).service :=
  slotStep_slot_of_finished hj (Slot.report_of_finished _ _ _ _ _ hy hf hl) hf

/-- R56: the resync flag of a station whose request has used up its retries. -/
theorem slotStep_station_of_standing {r : Report} {tr : Option Transition} {i : SlotId} {k : SlotKind}
    {n : StationId} {sent : Bool} {s : State} {y : Slot} (hj : r.job = .request i k n sent)
    (hy : (s.slot i).result s.link.config r = y) (he : y.exhausted = true) (hl : tr ≠ some .lost) :
    (slotStep r tr s).station n = { s.station n with resync := true } := by
  have stands := Slot.report_of_finished (t := tr) _ _ _ (s.station n).disablePending (s.link.state = .stopping) hy
    (finished_of_exhausted he) fun h => hl h.1
  exact (slotStep_station_of_request hj stands n).trans (if_pos ⟨he, rfl⟩)

theorem slotStep_station_of_unexhausted {r : Report} {tr : Option Transition} {i : SlotId} {k : SlotKind}
    {n : StationId} {sent : Bool} {s : State} (hj : r.job = .request i k n sent)
    (h : ((s.slot i).report s.link.config r tr (s.station n).disablePending (s.link.state = .stopping)).exhausted =
      false) (m : StationId) : (slotStep r tr s).station m = s.station m := by
  rw [slotStep_station_of_request hj rfl, h, if_neg (by simp)]

theorem Slot.report_not_exhausted_of_left {sl : Slot} {c : TimingConfig} {r : Report} {t : Option Transition}
    {d p : Bool} (active : sl.state = .active)
    (h : ¬(r.outcome = .miss ∨ r.outcome = .badReply) ∨ ¬c.retry.toNat ≤ sl.failCount) :
    (sl.report c r t d p).exhausted = false := by
  refine Bool.eq_false_iff.mpr fun he => ?_
  have spent := Slot.report_exhausted_of_result he
  rw [Slot.result_not_exhausted c r active h] at spent
  exact Bool.false_ne_true spent

/-! ### The other slots of the station -/

/-- A slot that is not the request's comes to the mass failure as it was. -/
theorem slotStep_other {r : Report} {s : State} {n : StationId} {tr : Option Transition} {j : SlotId}
    (hn : r.job.station? = some n) (hj : ∀ k sent, r.job ≠ .request j k n sent) :
    ∃ u, slotStep r tr s = massFailure n tr r.endTime u ∧ u.slot j = s.slot j ∧ (j ∈ u.service ↔ j ∈ s.service) := by
  rcases job_of_station hn with ⟨purpose, e⟩ | e | e | ⟨i, k, sent, e⟩
  · exact ⟨s, by simp [slotStep, e, Job.station?], rfl, Iff.rfl⟩
  · exact ⟨s, by simp [slotStep, e, Job.station?], rfl, Iff.rfl⟩
  · exact ⟨s, by simp [slotStep, e, Job.station?], rfl, Iff.rfl⟩
  · have other : i ≠ j := fun h => hj k sent (by rw [e, h])
    refine ⟨applyToSlot r tr i n s, slotStep_of_request e tr s, ?_, mem_applyToSlot_service_other r tr other n s⟩
    rw [applyToSlot_slot, if_neg other]

theorem slotStep_of_no_request {r : Report} {s : State} {n : StationId} (tr : Option Transition)
    (hn : r.job.station? = some n) (hj : ∀ i k sent, r.job ≠ .request i k n sent) :
    slotStep r tr s = massFailure n tr r.endTime s := by
  rcases job_of_station hn with ⟨purpose, e⟩ | e | e | ⟨i, k, sent, e⟩
  · simp [slotStep, e, Job.station?]
  · simp [slotStep, e, Job.station?]
  · simp [slotStep, e, Job.station?]
  · exact absurd e (hj i k sent)

/-- Settles O52: the ACTIVE slot by what overrides its result, the other slots by the mass failure. -/
theorem overridesAndMassFailure : Obligations.OverridesAndMassFailure := by
  refine ⟨fun r s i k n sent tr hj active => ?_, fun r s n tr j hn hj => ?_⟩
  · refine ⟨fun lost miss => ⟨?_, ?_⟩, fun isolated unsound left => ⟨?_, ?_⟩, fun not_lost unsound spent => ⟨?_, ?_⟩,
      fun not_gone pending_result pending => ?_, fun not_gone pending_result not_pending stopping => ?_,
      fun ⟨busy, waits⟩ => ?_, fun busy limit => ?_, fun p good reply => ?_, fun p refused reply => ?_,
      fun not_spent => ?_, fun m hm => ?_, ?_, slotStep_frame r tr s⟩
    · subst lost
      have open_result := Slot.result_of_unsound (s.slot i) s.link.config r (Or.inl miss)
      exact slotStep_of_override hj (Slot.report_of_lost _ _ _ _ _ open_result.1) (open_result.2 _)
    · subst lost
      exact slotStep_station_of_unexhausted hj
        (Bool.eq_false_iff.mpr fun he => Slot.report_exhausted he rfl) n
    · subst isolated
      have retried := result_of_retry (s.slot i) unsound (Nat.not_le.mp left)
      have open_result := Slot.result_of_unsound (s.slot i) s.link.config r unsound
      exact slotStep_of_override hj (Slot.report_of_isolated _ _ _ _ _ (by rw [retried]; rfl)) (open_result.2 _)
    · exact slotStep_station_of_unexhausted hj (Slot.report_not_exhausted_of_left active (Or.inr left)) n
    · exact slotStep_of_standing hj (result_of_spent _ unsound spent) rfl fun h => not_lost h.1
    · exact slotStep_station_of_standing hj (result_of_spent _ unsound spent) (fail_exhausted _ unsound) not_lost
    · have open_result := Slot.result_of_open (s.slot i) s.link.config r pending_result
      rw [not_or] at not_gone
      refine slotStep_of_override hj ?_ (open_result.2 _)
      rw [pending]
      exact Slot.report_of_disabled _ _ _ _ not_gone.1 not_gone.2 open_result.1
    · have open_result := Slot.result_of_open (s.slot i) s.link.config r pending_result
      rw [not_or] at not_gone
      refine slotStep_of_override hj ?_ (open_result.2 _)
      rw [not_pending, decide_eq_true stopping]
      exact Slot.report_of_stopping _ _ _ not_gone.1 not_gone.2 open_result.1
    · rw [slotStep_of_request hj, massFailure_busyCount, applyToSlot_slot, if_pos rfl, Slot.report_busyCount,
        result_of_waits _ busy waits, tallied_of_waits _ busy waits]
    · exact slotStep_of_standing hj (result_of_busyLimit _ busy fun h => limit ⟨busy, h⟩) rfl
        fun h => Bool.false_ne_true h.2
    · have taken := slotStep_of_standing (tr := tr) hj (result_of_good (s.slot i) good reply) rfl
        fun h => by simp [Slot.exhausted] at h
      rw [slotKind_eq] at taken
      exact ⟨taken.1, taken.2, slotStep_station_of_unexhausted hj
        (Slot.report_not_exhausted_of_left active (Or.inl (by simp [good]))) n⟩
    · have taken := slotStep_of_standing (tr := tr) hj (result_of_refused (s.slot i) refused reply) rfl
        fun h => Bool.false_ne_true h.2
      exact ⟨taken.1, taken.2, slotStep_station_of_unexhausted hj
        (Slot.report_not_exhausted_of_left active (Or.inl (by simp [refused]))) n⟩
    · exact slotStep_station_of_unexhausted hj (Slot.report_not_exhausted_of_left active not_spent) n
    · rw [slotStep_station_of_request hj rfl, if_neg fun h => hm h.2.symm]
    · rw [slotStep_of_request hj]
      exact (massFailure_service_sublist _ _ _ _).trans (applyToSlot_service_sublist _ _ _ _ _)
  · obtain ⟨u, step, slot_kept, mem_kept⟩ := slotStep_other (tr := tr) (s := s) hn hj
    refine ⟨fun o removed hit => ?_, fun spared => ?_, fun no_request => ⟨?_, ?_⟩⟩
    · have failed : massFailure n tr r.endTime u = failStationSlots n o r.endTime u := by
        rcases removed with ⟨rfl, rfl⟩ | ⟨rfl, rfl⟩ <;> rfl
      have waits : (u.slot j).waitsFor n := slot_kept.symm ▸ hit
      rw [step, failed, ← slot_kept]
      exact failStationSlots_of_waits waits o r.endTime
    · rw [step, ← slot_kept, ← mem_kept]
      rcases spared with ⟨not_lost, not_isolated⟩ | miss
      · rw [massFailure_of_kept n not_lost not_isolated]
        exact ⟨rfl, Iff.rfl⟩
      · exact massFailure_of_not_waits (slot_kept.symm ▸ miss) tr r.endTime
    · rw [slotStep_of_no_request tr hn no_request]
      exact massFailure_service_sublist n tr r.endTime s
    · rw [slotStep_of_no_request tr hn no_request]
      exact massFailure_frame n tr r.endTime s

end Sys2Proof.Machine
end

section
/-! SUPPORT. The host's accesses to the request slots: QUEUE, WITHDRAW and RELEASE by the state of the slot, and the
writes of the request fields. -/

namespace Sys2Proof.Machine

/-! ### A row that acts -/

/-- A host access while /RESET is high has its row's effect. -/
theorem exec_of_released {c : Instr} (hc : c.isHostAccess = true) {s : State} (hr : s.inReset = false) :
    exec c s = .next (rowEffect c s) := by
  rw [exec_eq_hostAccess hc, hostAccess_of_released _ hr]

/-- An event of the line or of a timer while /RESET is high and CLK runs has its row's effect. -/
theorem exec_of_running {c : Instr} (hc : c.isLinkEvent = true) {s : State} (hr : s.inReset = false)
    (hk : s.clkRunning = true) : exec c s = .next (rowEffect c s) := by
  rw [exec_eq_linkEvent hc, linkEvent_of_running _ hr hk]

/-! ### Commands with a slot number -/

section
variable {k : CommandCode} {f : SlotId → State → State × ResultCode} {s : State} (hk : commandEffect k = withSlot f)
include hk

/-- R171: a command whose argument is in range acts on the slot it names. -/
theorem issue_of_slot {i : SlotId} (h : s.host.cmdarg.toNat = i.val) :
    issue k s = (f i s).1.setCmdres (f i s).2 := by
  rw [issue_eq, hk]
  simp only [withSlot, slotOfByte?_of_eq h]

/-- R171: an argument over 7 gives BADARG and changes nothing else. -/
theorem issue_of_no_slot (h : 8 ≤ s.host.cmdarg.toNat) : issue k s = s.setCmdres .badArg := by
  rw [issue_eq, hk]
  simp only [withSlot, slotOfByte?_eq_none h]

end

/-! ### The checks of QUEUE -/

theorem takesQueue_iff (l : LinkState) : l.takesQueue = true ↔ l ≠ .stopped ∧ l ≠ .stopping ∧ l ≠ .faulted := by
  cases l <;> simp [LinkState.takesQueue]

theorem served_iff (st : Station) : st.served = true ↔ st.state = .online ∨ st.state = .degraded := by
  simp [Station.served]

theorem requestFits_iff (sl : Slot) :
    sl.requestFits = true ↔
      sl.station ≠ 0 ∧
        ((sl.kind = .fetch ∧ sl.reqLen ≤ 4) ∨ (sl.kind = .store ∧ 1 ≤ sl.reqLen ∧ sl.reqLen ≤ 32) ∨
          (sl.kind = .command ∧ sl.reqLen ≤ 32)) := by
  rw [Slot.requestFits, Bool.and_eq_true, stationAt?_isSome]
  cases sl.kind <;> simp [SlotKind.lengthFits]

theorem stationTakesRequests_iff (s : State) (a : BitVec 5) :
    s.stationTakesRequests a = true ↔
      ∃ n, a = address n ∧ ((s.station n).state = .online ∨ (s.station n).state = .degraded) ∧
        (s.station n).disablePending = false := by
  simp only [eq_address_iff, ← served_iff]
  unfold State.stationTakesRequests
  cases stationAt? a <;> simp

/-! ### QUEUE, by its first check that fails -/

section
variable {s : State} {i : SlotId}

theorem queueSlot_of_not_loaded (h : (s.slot i).state ≠ .loaded) : queueSlot i s = (s, .notLoaded) := if_pos h

theorem queueSlot_of_link_closed (h : (s.slot i).state = .loaded) (closed : ¬s.link.state.takesQueue = true) :
    queueSlot i s = (s, .wrongState) := by
  simp [queueSlot, h, closed]

theorem queueSlot_of_bad_request (h : (s.slot i).state = .loaded) (taken : s.link.state.takesQueue = true)
    (bad : ¬(s.slot i).requestFits = true) : queueSlot i s = (s, .badRequest) := by
  simp [queueSlot, h, taken, bad]

theorem queueSlot_of_station_down (h : (s.slot i).state = .loaded) (taken : s.link.state.takesQueue = true)
    (fits : (s.slot i).requestFits = true) (down : ¬s.stationTakesRequests (s.slot i).station = true) :
    queueSlot i s = (s, .stationDown) := by
  simp [queueSlot, h, taken, fits, down]

theorem queueSlot_of_all_checks (h : (s.slot i).state = .loaded) (taken : s.link.state.takesQueue = true)
    (fits : (s.slot i).requestFits = true) (up : s.stationTakesRequests (s.slot i).station = true) :
    queueSlot i s = ((s.setSlot i (s.slot i).enqueue).setService (s.service ++ [i]), .ok) := by
  simp [queueSlot, h, taken, fits, up]

end

/-- Settles O12: each check by the case it decides. -/
theorem queueCommand : Obligations.QueueCommand := by
  refine ⟨fun s hr beyond => ?_, fun s i hr hi => ?_⟩
  · rw [exec_of_released rfl hr, rowEffect, issue_of_no_slot rfl beyond]
    rfl
  · dsimp only
    rw [exec_of_released rfl hr, rowEffect, issue_of_slot rfl hi, ← takesQueue_iff, ← requestFits_iff,
      ← stationTakesRequests_iff]
    refine ⟨fun not_loaded => ?_, fun loaded closed => ?_, fun loaded taken bad => ?_,
      fun loaded taken fits down => ?_, fun loaded taken fits up => ?_⟩
    · rw [queueSlot_of_not_loaded not_loaded]
      rfl
    · rw [queueSlot_of_link_closed loaded closed]
      rfl
    · rw [queueSlot_of_bad_request loaded taken bad]
      rfl
    · rw [queueSlot_of_station_down loaded taken fits down]
      rfl
    · rw [queueSlot_of_all_checks loaded taken fits up]
      rfl

/-! ### WITHDRAW and RELEASE, by the state of the slot -/

section
variable {s : State} {i : SlotId}

theorem withdrawSlot_of_waiting (h : (s.slot i).state = .queued ∨ (s.slot i).state = .waiting) :
    withdrawSlot i s = ((s.setSlot i { s.slot i with state := .loaded, backoff := none }).leaveService i, .ok) := by
  rcases h with h | h <;> simp [withdrawSlot, h]

theorem withdrawSlot_of_active (h : (s.slot i).state = .active) : withdrawSlot i s = (s, .tooLate) := by
  simp [withdrawSlot, h]

theorem withdrawSlot_of_out_of_service
    (h : (s.slot i).state = .free ∨ (s.slot i).state = .loaded ∨ (s.slot i).state = .done ∨
      (s.slot i).state = .failed) : withdrawSlot i s = (s, .wrongState) := by
  rcases h with h | h | h | h <;> simp [withdrawSlot, h]

theorem releaseSlot_of_releasable
    (h : (s.slot i).state = .loaded ∨ (s.slot i).state = .done ∨ (s.slot i).state = .failed) :
    releaseSlot i s = (s.setSlot i .reset, .ok) := by
  rcases h with h | h | h <;> simp [releaseSlot, h]

theorem releaseSlot_of_not_releasable
    (h : (s.slot i).state = .free ∨ (s.slot i).state = .queued ∨ (s.slot i).state = .waiting ∨
      (s.slot i).state = .active) : releaseSlot i s = (s, .wrongState) := by
  rcases h with h | h | h | h <;> simp [releaseSlot, h]

end

/-! ### SLOTDONE -/

theorem finished_iff (sl : Slot) : sl.finished = true ↔ sl.state = .done ∨ sl.state = .failed := by
  simp [Slot.finished]

/-- R89: bit `i` of SLOTDONE is slot `i`'s. -/
theorem slotdone_getLsbD (s : State) (i : SlotId) : s.slotdone.getLsbD i = (s.slot i).finished := by
  simp only [State.slotdone, State.slotdoneBit, BitVec.getLsbD_append, BitVec.getLsbD_ofBool]
  fin_cases i <;> rfl

theorem slotdone_eq_zero_iff (s : State) : s.slotdone = 0 ↔ ∀ i, (s.slot i).finished = false := by
  constructor
  · intro zero i
    rw [← slotdone_getLsbD, zero]
    exact BitVec.getLsbD_zero
  · intro none_finished
    simp [State.slotdone, State.slotdoneBit, none_finished]

theorem slotCause_iff (s : State) : s.slotCause = true ↔ s.slotdone ≠ 0 := by
  simp [State.slotCause]

/-- R92: a released slot is FREE with its SLOTDONE bit clear, and SLOT is gone with the last finished slot. -/
theorem slotdone_of_released {s : State} {i : SlotId} (released : s.slot i = .reset) :
    s.slotdone.getLsbD i = false ∧
      ((∀ j, j ≠ i → (s.slot j).state ≠ .done ∧ (s.slot j).state ≠ .failed) →
        s.slotdone = 0 ∧ s.slotCause = false) := by
  have unfinished : (s.slot i).finished = false := by rw [released]; rfl
  refine ⟨by rw [slotdone_getLsbD, unfinished], fun others => ?_⟩
  have zero : s.slotdone = 0 := by
    refine (slotdone_eq_zero_iff s).mpr fun j => ?_
    by_cases hj : j = i
    · rw [hj, unfinished]
    · obtain ⟨not_done, not_failed⟩ := others j hj
      simp [Slot.finished, not_done, not_failed]
  exact ⟨zero, Bool.eq_false_iff.mpr fun cause => (slotCause_iff s).mp cause zero⟩

/-- Settles O13: both commands by the state of the slot. -/
theorem withdrawAndReleaseCommands : Obligations.WithdrawAndReleaseCommands := by
  refine ⟨⟨fun s hr beyond => ?_, fun s i hr hi => ?_⟩, fun s hr beyond => ?_, fun s i hr hi => ?_⟩
  · rw [exec_of_released rfl hr, rowEffect, issue_of_no_slot rfl beyond]
    rfl
  · rw [exec_of_released rfl hr, rowEffect, issue_of_slot rfl hi]
    refine ⟨fun waits => ?_, fun active => ?_, fun out => ?_⟩
    · rw [withdrawSlot_of_waiting waits]
      rfl
    · rw [withdrawSlot_of_active active]
      rfl
    · rw [withdrawSlot_of_out_of_service out]
      rfl
  · rw [exec_of_released rfl hr, rowEffect, issue_of_no_slot rfl beyond]
    rfl
  · rw [exec_of_released rfl hr, rowEffect, issue_of_slot rfl hi]
    refine ⟨fun releasable => ?_, fun not_releasable => ?_⟩
    · rw [releaseSlot_of_releasable releasable]
      have released : ((s.setSlot i .reset).setCmdres .ok).slot i = .reset := setSlot_slot_same s i .reset
      obtain ⟨bit_clear, cause_gone⟩ := slotdone_of_released released
      refine ⟨_, rfl, rfl, congrArg Slot.state released, bit_clear, fun others => cause_gone fun j hj => ?_⟩
      rw [setCmdres_slot, setSlot_slot_other s hj.symm]
      exact others j hj
    · rw [releaseSlot_of_not_releasable not_releasable]
      rfl

/-! ### Writes of the request fields -/

theorem hostOwned_iff (sl : Slot) : sl.hostOwned = true ↔ sl.state = .free ∨ sl.state = .loaded := by
  simp [Slot.hostOwned]

section
variable {f : SlotField} {v : Byte} {s : State}

theorem writeSlotField_of_taken {sl : Slot} (own : (s.slot s.host.slotsel).hostOwned = true)
    (hf : (s.slot s.host.slotsel).writeField? f v = some sl) :
    writeSlotField f v s = s.setSlot s.host.slotsel { sl with state := .loaded } := by
  simp [writeSlotField, own, hf]

theorem writeSlotField_of_out_of_range (own : (s.slot s.host.slotsel).hostOwned = true)
    (hf : (s.slot s.host.slotsel).writeField? f v = none) : writeSlotField f v s = s.rejectWrite := by
  simp [writeSlotField, own, hf]

theorem writeSlotField_of_not_owned (own : ¬(s.slot s.host.slotsel).hostOwned = true) :
    writeSlotField f v s = s.rejectWrite := if_neg own

end

/-- R178: a code over 2 is no kind. -/
theorem kindOfByte?_eq_none {v : Byte} (h : 2 < v.toNat) : SlotKind.ofByte? v = none := by
  have ne (k : Byte) (hk : k.toNat ≤ 2) : v ≠ k := fun e => absurd h (by rw [e]; omega)
  rw [SlotKind.ofByte?, if_neg (ne 0 (by decide)), if_neg (ne 1 (by decide)), if_neg (ne 2 (by decide))]

/-- Settles O17: the owner of the slot first, then field by field its range. -/
theorem requestFieldWrites : Obligations.RequestFieldWrites := by
  intro v s hr
  dsimp only
  have effect (f : SlotField) : exec (.slotRequestFieldWrite f v) s = .next (writeSlotField f v s) :=
    exec_of_released rfl hr
  simp only [effect]
  refine ⟨fun own => ?_, fun not_free not_loaded f => ?_⟩
  · rw [← hostOwned_iff] at own
    refine ⟨fun range => ?_, fun range => ?_, fun code => ?_, fun code => ?_, fun code => ?_, fun range => ?_, ?_, ?_,
      fun range => ?_, fun range => ?_⟩
    · rw [writeSlotField_of_taken (f := .station) own (if_pos (Nat.lt_succ_of_le range))]
      rfl
    · rw [writeSlotField_of_out_of_range (f := .station) own (if_neg (Nat.not_lt.mpr range))]
      rfl
    · rw [writeSlotField_of_taken (f := .kind) own (by rw [code]; rfl)]
      rfl
    · rw [writeSlotField_of_taken (f := .kind) own (by rw [code]; rfl)]
      rfl
    · rw [writeSlotField_of_taken (f := .kind) own (by rw [code]; rfl)]
      rfl
    · rw [writeSlotField_of_out_of_range own (by rw [Slot.writeField?, kindOfByte?_eq_none range]; rfl)]
      rfl
    · rw [writeSlotField_of_taken own rfl]
      rfl
    · rw [writeSlotField_of_taken own rfl]
      rfl
    · rw [writeSlotField_of_taken (f := .length) own (if_pos range)]
      rfl
    · rw [writeSlotField_of_out_of_range (f := .length) own (if_neg (Nat.not_le.mpr range))]
      rfl
  · have not_owned : ¬(s.slot s.host.slotsel).hostOwned = true := by
      rw [hostOwned_iff, not_or]
      exact ⟨not_free, not_loaded⟩
    rw [writeSlotField_of_not_owned not_owned]
    rfl

end Sys2Proof.Machine
end

section
/-! SUPPORT. The slot that goes next (R75, R76), and the expiries of the timers. -/

namespace Sys2Proof.Machine

/-! ### The slot that goes next -/

theorem stationServes_iff (s : State) (a : BitVec 5) :
    s.stationServes a = true ↔
      ∃ n, a = address n ∧ ((s.station n).state = .online ∨ (s.station n).state = .degraded) ∧
        (s.station n).resync = false ∧ (s.station n).disablePending = false := by
  simp only [eq_address_iff, ← served_iff]
  unfold State.stationServes
  cases stationAt? a <;> simp [and_assoc]

theorem waitingForService_iff (sl : Slot) : sl.waitingForService = true ↔ sl.state = .queued ∨ sl.state = .waiting := by
  simp [Slot.waitingForService]

theorem blocks_eq_false_iff (s : State) (sl : Slot) (earlier : SlotId) :
    s.blocks sl earlier = false ↔
      ((s.slot earlier).station = sl.station →
        (s.slot earlier).state ≠ .queued ∧ (s.slot earlier).state ≠ .waiting) := by
  rw [← not_or, ← waitingForService_iff]
  simp [State.blocks]

/-- R75: the four lines of the rule. -/
theorem eligible_iff (s : State) (earlier : List SlotId) (i : SlotId) :
    s.eligible earlier i = true ↔
      (s.slot i).state = .queued ∧ s.link.state = .running ∧
        (∃ n, (s.slot i).station = address n ∧
          ((s.station n).state = .online ∨ (s.station n).state = .degraded) ∧ (s.station n).resync = false ∧
          (s.station n).disablePending = false) ∧
        ((s.slot i).ordered = true → ∀ j ∈ earlier, (s.slot j).station = (s.slot i).station →
          (s.slot j).state ≠ .queued ∧ (s.slot j).state ≠ .waiting) := by
  have not_held_back : (!(s.slot i).ordered || earlier.all fun j => !s.blocks (s.slot i) j) = true ↔
      ((s.slot i).ordered = true → ∀ j ∈ earlier, s.blocks (s.slot i) j = false) := by
    cases (s.slot i).ordered <;> simp
  simp only [← stationServes_iff, ← blocks_eq_false_iff, ← not_held_back]
  simp [State.eligible, and_assoc]

/-- R76: the chosen slot stands at an eligible place of the service list; the eligible slots before it have a higher
priority value, and no eligible slot has a lower one. -/
theorem chosenSlot?_spec {s : State} {i : SlotId} (h : s.chosenSlot? = some i) :
    ∃ earlier later, s.service = earlier ++ i :: later ∧ s.eligible earlier i = true ∧
      (∀ j ∈ s.eligibleAfter [] earlier, (s.slot i).priority < (s.slot j).priority) ∧
      ∀ j ∈ s.eligibleSlots, (s.slot i).priority ≤ (s.slot j).priority := by
  obtain ⟨before, after, split, higher, no_lower⟩ := mostUrgent_spec h
  obtain ⟨earlier, later, service, eligible, front_eligible, -⟩ := eligibleAfter_split split
  refine ⟨earlier, later, service, eligible, front_eligible ▸ higher, fun j hj => ?_⟩
  rw [split, List.mem_append, List.mem_cons] at hj
  rcases hj with hj | rfl | hj
  · exact BitVec.le_of_lt (higher j hj)
  · exact BitVec.le_refl _
  · exact no_lower j hj

/-- Settles O40: the chosen place by the spec of the choice, and every other eligible place by whether it stands before
the chosen one. -/
theorem chosenSlotIsMostUrgentEligible : Obligations.ChosenSlotIsMostUrgentEligible := by
  intro s
  dsimp only
  simp only [← eligible_iff]
  refine ⟨fun i chosen => ?_, fun none_chosen earlier i later service eligible => ?_⟩
  · obtain ⟨earlier, later, service, eligible, higher, no_lower⟩ := chosenSlot?_spec chosen
    refine ⟨earlier, later, service, eligible, fun before j after place competes => ?_⟩
    by_cases first : before.length < earlier.length
    · have inside : before ++ [j] <+: earlier :=
        List.prefix_of_prefix_length_le ⟨after, by rw [place]; simp⟩ ⟨i :: later, service.symm⟩
          (by simpa using first)
      obtain ⟨rest, split⟩ := inside
      exact Or.inl (higher j (mem_eligibleAfter.mpr ⟨before, rest, by simp [← split], competes⟩))
    · have le := no_lower j (mem_eligibleAfter.mpr ⟨before, after, place, competes⟩)
      by_cases eq : (s.slot i).priority = (s.slot j).priority
      · exact Or.inr ⟨eq, Nat.not_lt.mp first⟩
      · exact Or.inl (BitVec.lt_of_le_ne le eq)
  · have member : i ∈ s.eligibleSlots := mem_eligibleAfter.mpr ⟨earlier, later, service, eligible⟩
    rw [chosenSlot?_eq_none.mp none_chosen] at member
    exact List.not_mem_nil member

/-! ### The timers, in their time and before it -/

section
variable {s : State}

theorem roundTimerExpires_with_items {t : Nat} (h : s.sched.roundTimer = .running t) (now : t ≤ s.clock)
    (items : s.sched.roundList ≠ []) :
    roundTimerExpires s = s.setSched { s.sched with roundTimer := .expired, rlate := true } := by
  have left : s.sched.roundList.isEmpty = false := by simpa using items
  simp [roundTimerExpires, h, now, startRoundIfDue, Scheduler.roundDue, left]

theorem roundTimerExpires_without_items {t : Nat} (h : s.sched.roundTimer = .running t) (now : t ≤ s.clock)
    (empty : s.sched.roundList = []) :
    roundTimerExpires s =
      if s.link.state = .running then startRound (s.setSched { s.sched with roundTimer := .expired })
      else s.setSched { s.sched with roundTimer := .expired } := by
  simp [roundTimerExpires, h, now, startRoundIfDue, Scheduler.roundDue, RoundTimer.elapsed, empty]

theorem roundTimerExpires_before (h : ∀ t, s.sched.roundTimer = .running t → s.clock < t) :
    roundTimerExpires s = s := by
  unfold roundTimerExpires
  split
  · next t running => exact if_neg (Nat.not_le.mpr (h t running))
  all_goals rfl

theorem backoffExpires_at {i : SlotId} {t : Nat} (waits : (s.slot i).state = .waiting)
    (h : (s.slot i).backoff = some t) (now : t ≤ s.clock) :
    backoffExpires i s = s.setSlot i { s.slot i with state := .queued, backoff := none } := by
  simp [backoffExpires, h, waits, now]

theorem backoffExpires_before {i : SlotId} {t : Nat} (h : (s.slot i).backoff = some t) (before : s.clock < t) :
    backoffExpires i s = s := by
  simp [backoffExpires, h, before]

theorem backoffExpires_of_no_timer {i : SlotId} (h : (s.slot i).state ≠ .waiting ∨ (s.slot i).backoff = none) :
    backoffExpires i s = s := by
  unfold backoffExpires
  split
  · next t running =>
    have not_waiting : (s.slot i).state ≠ .waiting := h.resolve_right (by simp [running])
    exact if_neg fun both => not_waiting both.1
  · rfl

theorem intervalExpires_at {timer : IntervalTimer} (h : s.time.interval = some timer)
    (now : timer.expiresAt ≤ s.clock) :
    intervalExpires s =
      s.setTime
        { s.time with
          pendingMark := true, interval := some { timer with expiresAt := timer.expiresAt + timer.period } } := by
  simp [intervalExpires, h, now]

theorem intervalExpires_before {timer : IntervalTimer} (h : s.time.interval = some timer)
    (before : s.clock < timer.expiresAt) : intervalExpires s = s := by
  simp [intervalExpires, h, before]

theorem intervalExpires_of_no_timer (h : s.time.interval = none) : intervalExpires s = s := by
  simp [intervalExpires, h]

end

/-- Settles O44: each timer at its instant, before it, and not running. -/
theorem timerExpiries : Obligations.TimerExpiries := by
  refine ⟨fun s hr hk => ?_, fun s hr hk => ?_⟩
  · have effect : exec .roundTimerExpiry s = .next (roundTimerExpires s) := exec_of_running rfl hr hk
    rw [effect]
    refine ⟨fun t running now => ?_, fun before => by rw [roundTimerExpires_before before]⟩
    refine ⟨fun items => ?_, fun empty runs => ?_, fun empty rests => ?_⟩
    · rw [roundTimerExpires_with_items running now items]
      rfl
    · rw [roundTimerExpires_without_items running now empty, if_pos runs]
      rfl
    · rw [roundTimerExpires_without_items running now empty, if_neg rests]
      rfl
  · have backoff (i : SlotId) : exec (.backoffExpiry i) s = .next (backoffExpires i s) := exec_of_running rfl hr hk
    have interval : exec .intervalTimerExpiry s = .next (intervalExpires s) := exec_of_running rfl hr hk
    simp only [backoff, interval]
    refine ⟨fun i t waits runs => ⟨fun now => ?_, fun before => ?_⟩, fun i none_runs => ?_,
      fun timer runs => ⟨fun now => ?_, fun before => ?_⟩, fun none_runs => ?_⟩
    · rw [backoffExpires_at waits runs now]
      rfl
    · rw [backoffExpires_before runs before]
    · rw [backoffExpires_of_no_timer none_runs]
    · rw [intervalExpires_at runs now]
      rfl
    · rw [intervalExpires_before runs before]
    · rw [intervalExpires_of_no_timer none_runs]

end Sys2Proof.Machine
end

section
/-! SUPPORT. What the reads of the register window return, window by window. -/

namespace Sys2Proof.Machine

/-! ### The status registers -/

theorem read_linkstat (s : State) : readRegister 0x02 s = s.linkstat := rfl
theorem read_istat (s : State) : readRegister 0x03 s = s.istat := rfl
theorem read_slotdone (s : State) : readRegister 0x05 s = s.slotdone := rfl

section
variable (s : State)

/-- R175: the bits of ISTAT. -/
theorem istat_bits :
    s.istat.getLsbD 0 = s.slotCause ∧ s.istat.getLsbD 1 = s.noteCause ∧ s.istat.getLsbD 2 = s.notes.ovr ∧
      s.istat.getLsbD 3 = s.link.link ∧ s.istat.extractLsb' 4 4 = 0 := by
  unfold State.istat State.causes
  generalize s.slotCause = slot, s.noteCause = note, s.notes.ovr = ovr, s.link.link = link
  revert slot note ovr link
  decide

/-- R174: the fields of LINKSTAT. -/
theorem linkstat_fields :
    s.linkstat.extractLsb' 0 3 = s.link.state.code ∧ s.linkstat.extractLsb' 3 3 = 0 ∧
      s.linkstat.getLsbD 6 = s.sched.rlate ∧ s.linkstat.getLsbD 7 = s.link.wrej := by
  unfold State.linkstat
  generalize s.link.state.code = code, s.sched.rlate = rlate, s.link.wrej = wrej
  revert code rlate wrej
  decide

/-- R176: /INT by the bits of ISTAT and IENAB. -/
theorem intAsserted_iff :
    s.intAsserted = true ↔ ∃ k < 4, s.istat.getLsbD k = true ∧ s.host.ienab.getLsbD k = true := by
  unfold State.intAsserted State.istat
  generalize s.causes = causes, s.host.ienab = enables
  revert causes enables
  decide

theorem noteCause_iff : s.noteCause = true ↔ s.notes.nthresh.toNat ≤ s.notes.queue.length := by
  simp [State.noteCause]

end

/-! ### Numbers -/

theorem toNat_of_index {n : Nat} (h : n ≤ 256) (i : Fin n) : (BitVec.ofNat 8 i.val).toNat = i.val :=
  Nat.mod_eq_of_lt (i.isLt.trans_le h)

theorem toNat_stationByte (n : StationId) : (stationByte n).toNat = n.val + 1 :=
  Nat.mod_eq_of_lt (by have := n.isLt; omega)

/-! ### The notification head -/

section
variable {s : State}

theorem readRegister_of_head {a : BitVec 6} (low : 0x17 ≤ a.toNat) (high : a.toNat ≤ 0x1F) :
    readRegister a s = readHead s a.toNat := by
  have not_config : ∀ a : BitVec 6, 0x17 ≤ a.toNat → configRegisterAt? a.toNat = none := by decide
  simp only [readRegister, not_config a low]
  repeat rw [if_neg (by omega)]
  exact if_pos (by omega)

theorem headByte_of_empty (h : s.notes.queue = []) (f : Notification → Byte) : headByte s f = 0 := by
  simp [headByte, h]

theorem headByte_of_head {n : Notification} {rest : List Notification} (h : s.notes.queue = n :: rest)
    (f : Notification → Byte) : headByte s f = f n := by
  simp [headByte, h]

/-- R137: the fields of the head read 0 for an empty queue. -/
theorem readHead_of_empty (h : s.notes.queue = []) {n : Nat} (low : 0x18 ≤ n) (high : n ≤ 0x1E) :
    readHead s n = 0 := by
  simp only [readHead, headByte_of_empty h]
  rw [if_neg (by omega), if_neg (by omega : ¬n = 0x1F)]
  simp

end

/-- Settles O25: the status registers by their bits, and the other addresses window by window. -/
theorem statusInterruptAndWindowReads : Obligations.StatusInterruptAndWindowReads := by
  refine ⟨fun s => ?_, fun s => ?_, fun s => ⟨rfl, rfl, fun empty a low high => ?_, fun n rest head => ?_⟩, fun s => ?_,
    fun s => ?_, fun s => ?_⟩
  · rw [read_linkstat, read_istat, read_slotdone, intAsserted_iff]
    obtain ⟨slot, note, ovr, link, high_clear⟩ := istat_bits s
    obtain ⟨state, reserved, rlate, wrej⟩ := linkstat_fields s
    refine ⟨fun i => ?_, ?_, ?_, ovr, link, high_clear, Iff.rfl, ?_, reserved, rlate, wrej⟩
    · rw [slotdone_getLsbD, Bool.eq_iff_iff, finished_iff, decide_eq_true_iff]
    · rw [slot, slotCause_iff]
    · rw [note, noteCause_iff]
    · rw [state]
      cases s.link.state <;> rfl
  · refine ⟨?_, rfl, rfl, rfl, rfl, rfl, rfl, rfl, rfl, rfl, rfl, rfl, rfl, rfl, rfl, ?_, rfl, rfl, rfl, rfl,
      toNat_of_index (by decide) s.host.slotsel, toNat_of_index (by decide) s.host.slptr,
      toNat_stationByte s.host.stasel, toNat_of_index (by decide) s.host.fsel⟩
    · change s.host.cmdres.code = _
      cases s.host.cmdres <;> rfl
    · change 0#7 ++ s.notes.fdefault.bit = _
      cases s.notes.fdefault <;> rfl
  · rw [readRegister_of_head (by omega) (by omega), readHead_of_empty empty low high]
  · have field := headByte_of_head head
    refine ⟨?_, ?_, field _, field _, field _, field _, field _⟩
    · refine (field fun e => e.kind.code).trans ?_
      cases n.kind <;> rfl
    · exact (congrArg BitVec.toNat (field fun e => stationByte e.station)).trans (toNat_stationByte n.station)
  · dsimp only
    refine ⟨?_, rfl, ?_, rfl, rfl, rfl, rfl, rfl, ?_, rfl, rfl, rfl, rfl, rfl, rfl⟩
    · change (s.slot s.host.slotsel).outcome.code ++ 0#1 ++ (s.slot s.host.slotsel).state.code = _
      cases (s.slot s.host.slotsel).outcome <;> cases (s.slot s.host.slotsel).state <;> rfl
    · change (s.slot s.host.slotsel).kind.code = _
      cases (s.slot s.host.slotsel).kind <;> rfl
    · change BitVec.ofNat 6 (s.slot s.host.slotsel).replyLen ++ (s.slot s.host.slotsel).replyKind.code = _
      cases (s.slot s.host.slotsel).replyKind <;> rfl
  · dsimp only
    refine ⟨?_, ?_, rfl, rfl, rfl, rfl, rfl⟩
    · change (s.station s.host.stasel).state.code = _
      cases (s.station s.host.stasel).state <;> rfl
    · change 0#5 ++ (s.station s.host.stasel).mode.bit ++ (s.station s.host.stasel).cls.code = _
      cases (s.station s.host.stasel).mode <;> cases (s.station s.host.stasel).cls <;> rfl
  · dsimp only
    refine ⟨?_, rfl, toNat_stationByte _, toNat_stationByte _, rfl, rfl⟩
    change 0#6 ++ (s.notes.filters[s.host.fsel]).action.bit ++ _ = _
    cases (s.notes.filters[s.host.fsel]).action <;> rfl

end Sys2Proof.Machine
end

section
/-! SUPPORT. What the events of the line can do, said once: they change the engine and the receiver alone, or end the
exchange in flight. -/

namespace Sys2Proof.Machine

/-- `s` goes to `t` by a change of the engine and the receiver, or by the end of its exchange at a change of the
receiver. -/
def State.lineLeads (s t : State) : Prop :=
  (∃ e r, t = (s.setEngine e).setReceiver r) ∨
    ∃ e whole o reply decided r, s.engine = some e ∧ t = endExchange e whole o reply decided (s.setReceiver r)

section
variable {s t : State}

theorem lineLeads_same : s.lineLeads s := Or.inl ⟨s.engine, s.receiver, rfl⟩

theorem lineLeads_setEngine (e : Option Exchange) : s.lineLeads (s.setEngine e) := Or.inl ⟨e, s.receiver, rfl⟩

theorem lineLeads_setReceiver (r : Receiver) : s.lineLeads (s.setReceiver r) := Or.inl ⟨s.engine, r, rfl⟩

theorem lineLeads_endExchange_at {e : Exchange} (he : s.engine = some e) (whole : Bool) (o : ExchangeOutcome)
    (reply : Option Reply) (decided : Nat) (r : Receiver) :
    s.lineLeads (endExchange e whole o reply decided (s.setReceiver r)) :=
  Or.inr ⟨e, whole, o, reply, decided, r, he, rfl⟩

theorem lineLeads_endExchange {e : Exchange} (he : s.engine = some e) (whole : Bool) (o : ExchangeOutcome)
    (reply : Option Reply) (decided : Nat) : s.lineLeads (endExchange e whole o reply decided s) :=
  lineLeads_endExchange_at he whole o reply decided s.receiver

theorem lineLeads_after_setReceiver (r : Receiver) (h : (s.setReceiver r).lineLeads t) : s.lineLeads t := by
  rcases h with ⟨e, r', rfl⟩ | ⟨e, whole, o, reply, decided, r', he, rfl⟩
  · exact Or.inl ⟨e, r', rfl⟩
  · exact Or.inr ⟨e, whole, o, reply, decided, r', he, rfl⟩

end

section
variable {s : State} {e : Exchange}

theorem compareEcho_leads (he : s.engine = some e) (compared : Nat) (v : Byte) (byteEnd : Nat) :
    s.lineLeads (compareEcho e compared v byteEnd s) := by
  unfold compareEcho
  split
  · split
    · exact lineLeads_setEngine _
    · split
      · exact lineLeads_endExchange he ..
      · exact lineLeads_setEngine _
  · exact lineLeads_endExchange he ..

theorem judgeByte_leads (he : s.engine = some e) (replyStart : Nat) (bytes : List Byte) (byteEnd : Nat) :
    s.lineLeads (judgeByte e replyStart bytes byteEnd s) := by
  unfold judgeByte
  split
  · exact lineLeads_setEngine _
  · exact lineLeads_setEngine _
  · exact lineLeads_endExchange he ..

end

section
variable (s : State)

theorem engineTakes_leads (v : Byte) (stopHigh : Bool) (byteEnd : Nat) :
    s.lineLeads (engineTakes v stopHigh byteEnd s) := by
  unfold engineTakes
  split
  · next e he =>
    split
    · exact compareEcho_leads he _ v byteEnd
    · split
      · exact lineLeads_setEngine _
      · exact judgeByte_leads he _ _ byteEnd
    all_goals exact lineLeads_same
  · exact lineLeads_same

theorem receiveByte_leads (v : Byte) (stopHigh : Bool) : s.lineLeads (receiveByte v stopHigh s) := by
  unfold receiveByte
  split
  · split
    · exact lineLeads_after_setReceiver _ (engineTakes_leads _ v stopHigh _)
    · exact lineLeads_same
  · exact lineLeads_same

theorem echoLimitPasses_leads : s.lineLeads (echoLimitPasses s) := by
  unfold echoLimitPasses
  split
  · next e he =>
    split
    · dsimp only
      split
      · rw [stopFrame_eq]
        exact lineLeads_endExchange_at he ..
      · exact lineLeads_same
    all_goals exact lineLeads_same
  · exact lineLeads_same

theorem windowExpires_leads : s.lineLeads (windowExpires s) := by
  unfold windowExpires
  split
  · next e he =>
    split
    · split
      · exact lineLeads_endExchange_at he ..
      · exact lineLeads_same
    all_goals exact lineLeads_same
  · exact lineLeads_same

theorem replyIsCutOff_leads : s.lineLeads (replyIsCutOff s) := by
  unfold replyIsCutOff
  split
  · next e he =>
    split
    · split
      · split
        · exact lineLeads_endExchange he ..
        · exact lineLeads_setEngine _
      · exact lineLeads_same
    all_goals exact lineLeads_same
  · exact lineLeads_same

theorem quietCountReached_leads : s.lineLeads (quietCountReached s) := by
  unfold quietCountReached
  split
  · next e he =>
    split
    · split
      · exact lineLeads_endExchange he ..
      · exact lineLeads_same
    all_goals exact lineLeads_same
  · exact lineLeads_same

theorem quietDeadlinePasses_leads : s.lineLeads (quietDeadlinePasses s) := by
  unfold quietDeadlinePasses
  split
  · next e he =>
    split
    · split
      · exact lineLeads_endExchange he ..
      · exact lineLeads_same
    all_goals exact lineLeads_same
  · exact lineLeads_same

theorem fallingEdge_leads : s.lineLeads (fallingEdge s) := by
  unfold fallingEdge
  split
  · exact lineLeads_setReceiver _
  · exact lineLeads_same

theorem beginReply_leads (edge : Nat) : s.lineLeads (beginReply edge s) := by
  unfold beginReply
  split
  · split
    · split
      · exact lineLeads_setEngine _
      · exact lineLeads_same
    all_goals exact lineLeads_same
  · exact lineLeads_same

theorem confirmStartBit_leads (rxdLow : Bool) : s.lineLeads (confirmStartBit rxdLow s) := by
  unfold confirmStartBit
  split
  · split
    · split
      · exact lineLeads_after_setReceiver _ (beginReply_leads _ _)
      · exact lineLeads_setReceiver _
    · exact lineLeads_same
  · exact lineLeads_same

theorem seenHigh_leads : s.lineLeads (seenHigh s) := by
  unfold seenHigh
  split
  · exact lineLeads_setReceiver _
  · exact lineLeads_same

theorem gapPasses_leads : s.lineLeads (gapPasses s) := by
  unfold gapPasses
  split
  · exact lineLeads_setReceiver _
  · exact lineLeads_same

end

end Sys2Proof.Machine
end

section
/-! SUPPORT. Finished slots: no row but RELEASE and device reset changes a slot that is DONE or FAILED. -/

namespace Sys2Proof.Machine

/-- R71, R89: every slot that is DONE or FAILED in `s` is in `t` as it was. -/
def State.finishedKept (s t : State) : Prop := ∀ i, (s.slot i).finished = true → t.slot i = s.slot i

/-! ### What keeps the finished slots -/

section
variable {s t u : State}

theorem finishedKept_of_slots (e : t.slots = s.slots) : s.finishedKept t := by
  intro i _
  simp [State.slot, e]

theorem finishedKept_trans (h : s.finishedKept t) (g : t.finishedKept u) : s.finishedKept u := by
  intro i finished
  have same := h i finished
  rw [g i (same.symm ▸ finished), same]

theorem setSlot_finishedKept {i : SlotId} (unfinished : (s.slot i).finished = false) (x : Slot) :
    s.finishedKept (s.setSlot i x) := by
  intro j finished
  refine setSlot_slot_other s (fun same => ?_) x
  rw [same, finished] at unfinished
  cases unfinished

theorem failSlots_finishedKept (p : Slot → Bool) (o : SlotOutcome) (time : Stamp) :
    s.finishedKept (failSlots p o time s) := by
  intro i finished
  rw [failSlots_slot, if_neg]
  rintro ⟨-, waits⟩
  rw [not_waiting_of_finished finished] at waits
  cases waits

end

theorem unfinished_of_state {sl : Slot} (not_done : sl.state ≠ .done) (not_failed : sl.state ≠ .failed) :
    sl.finished = false := by
  simp [Slot.finished, not_done, not_failed]

/-! ### The end of an exchange -/

section
variable {s : State}

theorem massFailure_finishedKept (n : StationId) (tr : Option Transition) (time : Stamp) (s : State) :
    s.finishedKept (massFailure n tr time s) := by
  rcases massFailure_cases n tr time s with ⟨-, -, h⟩ | ⟨o, -, h⟩ <;> rw [h]
  · exact finishedKept_of_slots rfl
  · exact failSlots_finishedKept _ _ _

theorem applyDisable_finishedKept (n : StationId) (time : Stamp) (s : State) :
    s.finishedKept (applyDisable n time s) :=
  finishedKept_trans (t := ((s.setStation n (s.station n).disable).removeRoundItem n).removeDiscoveryEntry n)
    (finishedKept_of_slots rfl) (failSlots_finishedKept _ _ _)

theorem enterStopped_finishedKept (time : Stamp) (s : State) : s.finishedKept (enterStopped time s) :=
  finishedKept_trans (t := (s.setLinkState .stopped).setLinkFlag) (finishedKept_of_slots rfl)
    (fun i finished => failSlots_finishedKept (fun _ => true) .stopped time i finished)

/-- R77: a finished slot is not the request's, which is ACTIVE. -/
theorem slotStep_finishedKept {r : Report} (tr : Option Transition) (active : s.activeFor r.job) :
    s.finishedKept (slotStep r tr s) := by
  intro j finished
  cases hn : r.job.station? with
  | none =>
    have mark : r.job = .timeMark := by
      cases hj : r.job <;> simp [hj, Job.station?] at hn
      rfl
    simp [slotStep, mark, Job.station?]
  | some n =>
    have not_requested (k : SlotKind) (sent : Bool) : r.job ≠ .request j k n sent := by
      intro hj
      have is_active := (active j).mpr ⟨k, n, sent, hj⟩
      simp [Slot.finished, is_active] at finished
    obtain ⟨u, step, same, -⟩ := slotStep_other (tr := tr) hn not_requested
    rw [step, massFailure_finishedKept n tr r.endTime u j (same.symm ▸ finished), same]

theorem disableStep_finishedKept (r : Report) (s : State) : s.finishedKept (disableStep r s) := by
  rcases disableStep_cases r s with h | ⟨n, -, -, h⟩ <;> rw [h]
  · exact finishedKept_of_slots rfl
  · exact applyDisable_finishedKept n r.endTime s

theorem linkStep_finishedKept (r : Report) (s : State) : s.finishedKept (linkStep r s) := by
  rcases linkStep_cases r s with ⟨-, -, e⟩ | ⟨-, -, e⟩ | ⟨-, -, e⟩ | ⟨-, e⟩ | ⟨-, e⟩ <;> rw [e]
  · exact finishedKept_of_slots rfl
  · exact finishedKept_of_slots rfl
  · exact finishedKept_of_slots rfl
  · exact finishedKept_trans (finishedKept_of_slots rfl) (enterStopped_finishedKept r.endTime _)
  · exact finishedKept_of_slots rfl

theorem takeReport_finishedKept {r : Report} (active : s.activeFor r.job) : s.finishedKept (takeReport r s) := by
  have taken : s.finishedKept (attentionStep r (stationStep r (s.setEngine none)).1) :=
    finishedKept_of_slots (by simp)
  have still_active : (attentionStep r (stationStep r (s.setEngine none)).1).activeFor r.job := by
    intro i
    rw [attentionStep_slot, stationStep_slot]
    exact active i
  have slots : s.finishedKept (afterSlots r s) := finishedKept_trans taken (slotStep_finishedKept _ still_active)
  have links : s.finishedKept (linkStep r (afterDisable r s)) :=
    finishedKept_trans (finishedKept_trans slots (disableStep_finishedKept r _)) (linkStep_finishedKept r _)
  intro i finished
  rw [takeReport_slot]
  exact links i finished

/-- The events of the line keep the finished slots. -/
theorem finishedKept_of_lineLeads {t : State} (h : s.Inv) (leads : s.lineLeads t) : s.finishedKept t := by
  rcases leads with ⟨e, r, rfl⟩ | ⟨e, whole, o, reply, decided, r, he, rfl⟩
  · exact finishedKept_of_slots rfl
  · have active : (s.setReceiver r).activeFor e.job := h.activeFor he
    refine finishedKept_trans (t := s.setReceiver r) (finishedKept_of_slots rfl) ?_
    unfold endExchange
    exact takeReport_finishedKept active

end

/-! ### The commands -/

@[simp] theorem startRoundIfDue_slots (s : State) : (startRoundIfDue s).slots = s.slots := by
  unfold startRoundIfDue
  split <;> rfl

@[simp] theorem completeDiscovery_slots (s : State) : (completeDiscovery s).slots = s.slots := by
  unfold completeDiscovery
  split <;> rfl

@[simp] theorem startInterval_slots (s : State) : (startInterval s).slots = s.slots := by
  rw [startInterval_frame]

theorem startLink_slots (s : State) : (startLink s).1.slots = s.slots := by
  unfold startLink
  split
  · simp
  all_goals rfl

theorem holdLink_slots (s : State) : (holdLink s).1.slots = s.slots := by
  unfold holdLink
  split
  · split <;> rfl
  all_goals rfl

theorem resumeLink_slots (s : State) : (resumeLink s).1.slots = s.slots := by
  unfold resumeLink
  split
  · simp
  · simp
  all_goals rfl

theorem enableStation_slots (n : StationId) (s : State) : (enableStation n s).1.slots = s.slots := by
  unfold enableStation
  split <;> rfl

theorem popQueue_slots (s : State) : (popQueue s).1.slots = s.slots := by
  unfold popQueue
  split <;> rfl

section
variable (s : State)

theorem stopLink_finishedKept : s.finishedKept (stopLink s).1 := by
  unfold stopLink
  split
  · split
    · exact finishedKept_of_slots rfl
    · exact enterStopped_finishedKept _ s
  · split
    · exact finishedKept_of_slots rfl
    · exact enterStopped_finishedKept _ s
  · exact finishedKept_of_slots rfl
  · exact enterStopped_finishedKept _ s
  · exact enterStopped_finishedKept _ s
  all_goals exact finishedKept_of_slots rfl

theorem disableStation_finishedKept (n : StationId) : s.finishedKept (disableStation n s).1 := by
  unfold disableStation
  split
  · exact finishedKept_of_slots rfl
  · split
    · exact finishedKept_of_slots rfl
    · exact finishedKept_trans (applyDisable_finishedKept n _ s) (finishedKept_of_slots (afterRemoval_slots _))

/-- R72: QUEUE changes nothing beyond its result, or queues a LOADED slot. -/
theorem queueSlot_cases (i : SlotId) :
    (queueSlot i s).1 = s ∨
      ((s.slot i).state = .loaded ∧
        (queueSlot i s).1 = (s.setSlot i (s.slot i).enqueue).setService (s.service ++ [i])) := by
  unfold queueSlot
  split
  · exact Or.inl rfl
  · next loaded =>
    repeat' split
    · exact Or.inl rfl
    · exact Or.inl rfl
    · exact Or.inl rfl
    · exact Or.inr ⟨not_not.mp loaded, rfl⟩

theorem queueSlot_finishedKept (i : SlotId) : s.finishedKept (queueSlot i s).1 := by
  rcases queueSlot_cases s i with same | ⟨loaded, queued⟩
  · rw [same]
    exact finishedKept_of_slots rfl
  · rw [queued]
    exact setSlot_finishedKept (unfinished_of_state (by simp [loaded]) (by simp [loaded])) _

theorem withdrawSlot_finishedKept (i : SlotId) : s.finishedKept (withdrawSlot i s).1 := by
  unfold withdrawSlot
  split
  · next queued => exact setSlot_finishedKept (unfinished_of_state (by simp [queued]) (by simp [queued])) _
  · next waiting => exact setSlot_finishedKept (unfinished_of_state (by simp [waiting]) (by simp [waiting])) _
  all_goals exact finishedKept_of_slots rfl

theorem withStation_finishedKept {f : StationId → State → State × ResultCode}
    (hf : ∀ n, s.finishedKept (f n s).1) : s.finishedKept (withStation f s).1 := by
  unfold withStation
  split
  · exact hf _
  · exact finishedKept_of_slots rfl

theorem withSlot_finishedKept {f : SlotId → State → State × ResultCode} (hf : ∀ i, s.finishedKept (f i s).1) :
    s.finishedKept (withSlot f s).1 := by
  unfold withSlot
  split
  · exact hf _
  · exact finishedKept_of_slots rfl

/-- Every command but RELEASE keeps the finished slots. -/
theorem issue_finishedKept {k : CommandCode} (not_release : k ≠ .release) : s.finishedKept (issue k s) :=
  match k with
  | .start => finishedKept_of_slots (startLink_slots s)
  | .stop => stopLink_finishedKept s
  | .hold => finishedKept_of_slots (holdLink_slots s)
  | .resume => finishedKept_of_slots (resumeLink_slots s)
  | .enable => withStation_finishedKept s fun n => finishedKept_of_slots (enableStation_slots n s)
  | .disable => withStation_finishedKept s fun n => disableStation_finishedKept s n
  | .clearattn => withStation_finishedKept s fun _ => finishedKept_of_slots rfl
  | .queue => withSlot_finishedKept s fun i => queueSlot_finishedKept s i
  | .withdraw => withSlot_finishedKept s fun i => withdrawSlot_finishedKept s i
  | .release => absurd rfl not_release
  | .pop => finishedKept_of_slots (popQueue_slots s)

end

/-! ### The writes of the registers -/

theorem writeConfig_slots (r : ConfigRegister) (v : Byte) (s : State) : (writeConfig r v s).slots = s.slots := by
  unfold writeConfig rateWritten
  split
  · split <;> rfl
  · rfl

theorem writeIenab_slots (v : Byte) (s : State) : (writeIenab v s).slots = s.slots := by
  unfold writeIenab
  split <;> rfl

theorem writeNthresh_slots (v : Byte) (s : State) : (writeNthresh v s).slots = s.slots := by
  unfold writeNthresh
  split <;> rfl

theorem writeFdefault_slots (v : Byte) (s : State) : (writeFdefault v s).slots = s.slots := by
  unfold writeFdefault
  split <;> rfl

theorem writeSlotsel_slots (v : Byte) (s : State) : (writeSlotsel v s).slots = s.slots := by
  unfold writeSlotsel
  split <;> rfl

theorem writeSlptr_slots (v : Byte) (s : State) : (writeSlptr v s).slots = s.slots := by
  unfold writeSlptr
  split <;> rfl

theorem writeStasel_slots (v : Byte) (s : State) : (writeStasel v s).slots = s.slots := by
  unfold writeStasel
  split <;> rfl

theorem writeFsel_slots (v : Byte) (s : State) : (writeFsel v s).slots = s.slots := by
  unfold writeFsel
  split <;> rfl

theorem writeStcfg_slots (v : Byte) (s : State) : (writeStcfg v s).slots = s.slots := by
  unfold writeStcfg
  split <;> rfl

theorem writeFilter_slots (f : FilterField) (v : Byte) (s : State) : (writeFilter f v s).slots = s.slots := by
  unfold writeFilter
  split <;> rfl

/-- R169: the registers that REGISTER_WRITE alone writes; the other addresses without a row of their own are
read-only. -/
theorem writeRegister_without_own_row {a : BitVec 6} (h : addressHasOwnRow a = false) (v : Byte) (s : State) :
    writeRegister a v s =
      if a.toNat = 0x01 then writeCmdarg v s
      else if a.toNat = 0x27 then writeSlptr v s
      else if a.toNat = 0x31 then writeStasel v s
      else if a.toNat = 0x39 then writeFsel v s
      else s.rejectWrite := by
  have no_row : ∀ a : BitVec 6, addressHasOwnRow a = false →
      configRegisterAt? a.toNat = none ∧ slotFieldAt? a.toNat = none ∧ filterFieldAt? a.toNat = none ∧
        a.toNat ∉ [0x00, 0x02, 0x03, 0x04, 0x11, 0x12, 0x20, 0x28, 0x33] := by decide
  obtain ⟨no_config, no_slot, no_filter, no_other⟩ := no_row a h
  simp only [List.mem_cons, List.not_mem_nil, or_false, not_or] at no_other
  simp [writeRegister, no_config, no_slot, no_filter, no_other]

theorem registerWrite_slots {a : BitVec 6} (h : addressHasOwnRow a = false) (v : Byte) (s : State) :
    (writeRegister a v s).slots = s.slots := by
  rw [writeRegister_without_own_row h]
  split
  · rfl
  · split
    · exact writeSlptr_slots v s
    · split
      · exact writeStasel_slots v s
      · split
        · exact writeFsel_slots v s
        · rfl

section
variable (s : State)

theorem unfinished_of_hostOwned {sl : Slot} (own : sl.hostOwned = true) : sl.finished = false := by
  rcases (hostOwned_iff sl).mp own with state | state <;> simp [Slot.finished, state]

theorem writeSlotField_finishedKept (f : SlotField) (v : Byte) : s.finishedKept (writeSlotField f v s) := by
  by_cases own : (s.slot s.host.slotsel).hostOwned = true
  · cases field : (s.slot s.host.slotsel).writeField? f v with
    | some sl =>
      rw [writeSlotField_of_taken own field]
      exact setSlot_finishedKept (unfinished_of_hostOwned own) _
    | none =>
      rw [writeSlotField_of_out_of_range own field]
      exact finishedKept_of_slots rfl
  · rw [writeSlotField_of_not_owned own]
    exact finishedKept_of_slots rfl

theorem writeSlreq_finishedKept (v : Byte) : s.finishedKept (writeSlreq v s) := by
  unfold writeSlreq
  dsimp only
  split
  · next own => exact setSlot_finishedKept (unfinished_of_hostOwned own) _
  · exact finishedKept_of_slots rfl

/-! ### /RESET, the timers and the choice -/

theorem backoffExpires_finishedKept (i : SlotId) : s.finishedKept (backoffExpires i s) := by
  unfold backoffExpires
  split
  · split
    · next waits => exact setSlot_finishedKept (unfinished_of_state (by simp [waits.1]) (by simp [waits.1])) _
    · exact finishedKept_of_slots rfl
  · exact finishedKept_of_slots rfl

theorem releaseReset_slots (rxdHigh : Bool) : (releaseReset rxdHigh s).slots = s.slots := by
  unfold releaseReset
  split <;> rfl

theorem roundTimerExpires_slots : (roundTimerExpires s).slots = s.slots := by
  unfold roundTimerExpires
  split
  · split
    · simp
    · rfl
  all_goals rfl

theorem intervalExpires_slots : (intervalExpires s).slots = s.slots := by
  unfold intervalExpires
  split
  · split <;> rfl
  · rfl

theorem startExchange_finishedKept {j : Job}
    (queued : ∀ i k n sent, j = .request i k n sent → (s.slot i).state = .queued) : s.finishedKept (startExchange j s) := by
  cases j with
  | request i k n sent =>
    have state := queued i k n sent rfl
    exact finishedKept_trans
      (setSlot_finishedKept (unfinished_of_state (by simp [state]) (by simp [state])) _) (finishedKept_of_slots rfl)
  | _ => exact finishedKept_of_slots rfl

theorem availableJob?_queued {s : State} {i : SlotId} {k : SlotKind} {n : StationId} {sent : Bool}
    (h : s.availableJob? = some (.request i k n sent)) : (s.slot i).state = .queued := by
  rcases availableJob?_cases h with ⟨e, -⟩ | ⟨_, e, -⟩ | ⟨-, ⟨_, e, -⟩ | ⟨_, e, -⟩ | ⟨x, _, -, e⟩ | ⟨_, _, e, queued, -⟩⟩
  · cases e
  · cases e
  · cases e
  · cases e
  · unfold RoundItem.job at e
    split at e <;> cases e
  · cases e
    exact queued

theorem schedulerChooses_finishedKept : s.finishedKept (schedulerChooses s) := by
  unfold schedulerChooses
  split
  · split
    · next job available =>
      refine startExchange_finishedKept s fun i k n sent e => ?_
      subst e
      exact availableJob?_queued available
    · exact finishedKept_of_slots rfl
  · exact finishedKept_of_slots rfl

end

/-! ### Every row -/

theorem rowEffect_finishedKept {c : Instr} {s : State} (h : s.Inv) (formed : c.wellFormed = true)
    (not_release : c ≠ .release) (not_reset : c ≠ .deviceReset) : s.finishedKept (rowEffect c s) := by
  cases c with
  | deviceReset => exact absurd rfl not_reset
  | release => exact absurd rfl not_release
  | clkStop | clkRestart | time0Read | slrplyRead | timeCounterTick => exact finishedKept_of_slots rfl
  | clearRlate v | clearWrej v | clearOvr v | clearLink v => exact finishedKept_of_slots rfl
  | start | stop | hold | resume | enable | disable | clearattn | queue | withdraw | pop =>
    exact issue_finishedKept s (by simp)
  | unknownCommandCode v =>
    have unknown : CommandCode.ofByte? v = none := by simpa [Instr.wellFormed] using formed
    rw [rowEffect, writeCmd, unknown]
    exact finishedKept_of_slots rfl
  | registerWrite a v =>
    have no_row : addressHasOwnRow a = false := by simpa [Instr.wellFormed] using formed
    exact finishedKept_of_slots (registerWrite_slots no_row v s)
  | resetReleased rxdHigh => exact finishedKept_of_slots (releaseReset_slots s rxdHigh)
  | slreqWrite v => exact writeSlreq_finishedKept s v
  | slotRequestFieldWrite f v => exact writeSlotField_finishedKept s f v
  | slotselWrite v => exact finishedKept_of_slots (writeSlotsel_slots v s)
  | classWrite v | attentionModeWrite v => exact finishedKept_of_slots (writeStcfg_slots v s)
  | nthreshWrite v => exact finishedKept_of_slots (writeNthresh_slots v s)
  | ienabWrite v => exact finishedKept_of_slots (writeIenab_slots v s)
  | configurationWrite r v => exact finishedKept_of_slots (writeConfig_slots r v s)
  | filterWrite f v => exact finishedKept_of_slots (writeFilter_slots f v s)
  | fdefaultWrite v => exact finishedKept_of_slots (writeFdefault_slots v s)
  | schedulerChoice => exact schedulerChooses_finishedKept s
  | backoffExpiry i => exact backoffExpires_finishedKept s i
  | roundTimerExpiry => exact finishedKept_of_slots (roundTimerExpires_slots s)
  | intervalTimerExpiry => exact finishedKept_of_slots (intervalExpires_slots s)
  | byteReceived v stopHigh => exact finishedKept_of_lineLeads h (receiveByte_leads s v stopHigh)
  | echoLimit => exact finishedKept_of_lineLeads h (echoLimitPasses_leads s)
  | responseWindowExpiry => exact finishedKept_of_lineLeads h (windowExpires_leads s)
  | replyCutOff => exact finishedKept_of_lineLeads h (replyIsCutOff_leads s)
  | quietCount => exact finishedKept_of_lineLeads h (quietCountReached_leads s)
  | quietWaitDeadline => exact finishedKept_of_lineLeads h (quietDeadlinePasses_leads s)
  | turnaroundGap => exact finishedKept_of_lineLeads h (gapPasses_leads s)
  | startBitEdge => exact finishedKept_of_lineLeads h (fallingEdge_leads s)
  | startBitConfirmation rxdLow => exact finishedKept_of_lineLeads h (confirmStartBit_leads s rxdLow)
  | rxdSeenHigh => exact finishedKept_of_lineLeads h (seenHigh_leads s)

/-- A row has its effect, or a guard holds it off and nothing changes. -/
theorem exec_cases {c : Instr} {s t : State} (h : exec c s = .next t) : t = s ∨ t = rowEffect c s := by
  by_cases access : c.isHostAccess = true
  · rw [exec_eq_hostAccess access, hostAccess] at h
    split at h
    · exact Or.inl (Host.Outcome.next.inj h).symm
    · exact Or.inr (Host.Outcome.next.inj h).symm
  · by_cases input : c.isInput = true
    · rw [exec_of_isInput input] at h
      exact Or.inr (Host.Outcome.next.inj h).symm
    · rw [exec_eq_linkEvent (by simp [Instr.isLinkEvent, access, input]), linkEvent] at h
      split at h
      · exact Or.inl (Host.Outcome.next.inj h).symm
      · exact Or.inr (Host.Outcome.next.inj h).symm

/-- Settles O58: the effect of every row but the two keeps the finished slots. -/
theorem finishedSlotsAreFrozen : Obligations.FinishedSlotsAreFrozen := by
  intro c s t i h formed not_release not_reset finished taken
  rcases exec_cases taken with rfl | rfl
  · rfl
  · exact rowEffect_finishedKept h formed not_release not_reset i ((finished_iff _).mpr finished)

end Sys2Proof.Machine
end

section
/-! SUPPORT. What a round start leaves (R106 to R108), what follows a removal, and which job a choice takes (R95 to
R101). -/

namespace Sys2Proof.Machine

/-! ### The round that starts -/

theorem dividesRound_iff (d : Byte) (counter : BitVec 16) :
    dividesRound d counter = true ↔ counter.toNat % d.toNat = 0 := decide_eq_true_iff

/-- R108: a build calls for an item of this kind from a station with this entry. -/
def Station.calledFor (st : Station) (c : TimingConfig) (counter : BitVec 16) : RoundItemKind → Prop
  | .poll =>
    (st.state = .online ∨ st.state = .degraded) ∧
      (st.cls = .fast ∨ (st.cls = .slow ∧ counter.toNat % c.slowdiv.toNat = 0))
  | .probe => st.state = .absent ∧ counter.toNat % c.probediv.toNat = 0
  | .recoveryProbe => st.state = .isolated ∧ counter.toNat % c.probediv.toNat = 0

section
variable (c : TimingConfig) (counter : BitVec 16) (n : StationId) {st : Station}

theorem roundItem?_of_unused (h : st.state = .unused) : roundItem? c counter n st = none := by
  simp [roundItem?, h]

theorem roundItem?_of_absent (h : st.state = .absent) :
    roundItem? c counter n st = if counter.toNat % c.probediv.toNat = 0 then some ⟨n, .probe⟩ else none := by
  simp [roundItem?, h, dividesRound_iff]

theorem roundItem?_of_isolated (h : st.state = .isolated) :
    roundItem? c counter n st = if counter.toNat % c.probediv.toNat = 0 then some ⟨n, .recoveryProbe⟩ else none := by
  simp [roundItem?, h, dividesRound_iff]

/-- R108: a station that is ONLINE or DEGRADED is polled by its class. -/
theorem roundItem?_of_served (h : st.state = .online ∨ st.state = .degraded) :
    roundItem? c counter n st =
      if st.cls = .fast ∨ (st.cls = .slow ∧ counter.toNat % c.slowdiv.toNat = 0) then some ⟨n, .poll⟩ else none := by
  rcases h with h | h <;> cases cls : st.cls <;> simp [roundItem?, h, cls, dividesRound_iff]

theorem roundItem?_eq_some_iff (kind : RoundItemKind) :
    roundItem? c counter n st = some ⟨n, kind⟩ ↔ st.calledFor c counter kind := by
  cases state : st.state with
  | unused =>
    rw [roundItem?_of_unused c counter n state]
    cases kind <;> simp [Station.calledFor, state]
  | absent =>
    rw [roundItem?_of_absent c counter n state]
    cases kind <;> simp [Station.calledFor, state]
  | isolated =>
    rw [roundItem?_of_isolated c counter n state]
    cases kind <;> simp [Station.calledFor, state]
  | online =>
    rw [roundItem?_of_served c counter n (.inl state)]
    cases kind <;> simp [Station.calledFor, state, or_iff_not_imp_left]
  | degraded =>
    rw [roundItem?_of_served c counter n (.inr state)]
    cases kind <;> simp [Station.calledFor, state, or_iff_not_imp_left]

end

/-- R108: the items that a round start puts on its list. -/
theorem mem_startRound_roundList (s : State) (n : StationId) (kind : RoundItemKind) :
    ⟨n, kind⟩ ∈ (startRound s).sched.roundList ↔
      (s.station n).calledFor s.link.config (s.sched.roundCounter + 1) kind := by
  rw [startRound_roundList, mem_buildRound]
  exact roundItem?_eq_some_iff _ _ n kind

theorem roundTimerFor_of_round {s : State} (items : List RoundItem) (h : s.link.config.round ≠ 0) :
    s.roundTimerFor items = .running (s.clock + 1000 * s.link.config.round.toNat) := if_neg h

theorem roundTimerFor_of_empty {s : State} {items : List RoundItem} (h : s.link.config.round = 0)
    (empty : items = []) : s.roundTimerFor items = .running (s.clock + 1000) :=
  (if_pos h).trans (if_pos empty)

theorem roundTimerFor_of_items {s : State} {items : List RoundItem} (h : s.link.config.round = 0)
    (left : items ≠ []) : s.roundTimerFor items = .noExpiry :=
  (if_pos h).trans (if_neg left)

/-- Settles O42: the timer by ROUND and the list built, the list by what each entry calls for. -/
theorem roundStart : Obligations.RoundStart := by
  intro s
  dsimp only
  refine ⟨rfl, roundTimerFor_of_round _, roundTimerFor_of_empty, roundTimerFor_of_items, buildRound_pairwise s _,
    fun n => ⟨?_, ?_, ?_⟩⟩
  · exact mem_startRound_roundList s n .poll
  · exact mem_startRound_roundList s n .probe
  · exact mem_startRound_roundList s n .recoveryProbe

/-! ### What follows a removal -/

theorem elapsed_iff (t : RoundTimer) : t.elapsed = true ↔ t = .expired ∨ t = .noExpiry := by
  cases t <;> simp [RoundTimer.elapsed]

theorem roundDue_iff (c : Scheduler) :
    c.roundDue = true ↔ (c.roundTimer = .expired ∨ c.roundTimer = .noExpiry) ∧ c.roundList = [] := by
  rw [Scheduler.roundDue, Bool.and_eq_true, elapsed_iff, List.isEmpty_iff]

section
variable {s : State}

theorem afterRemoval_of_discovered (starting : s.link.state = .starting) (empty : s.sched.discovery = []) :
    afterRemoval s = startRound { s with link := { s.link with state := .running, link := true } } := by
  rcases afterRemoval_cases s with ⟨-, -, follows⟩ | ⟨running, -, -⟩ | ⟨not_discovered, -, -⟩
  · exact follows
  · simp [starting] at running
  · exact absurd ⟨starting, empty⟩ not_discovered

theorem afterRemoval_of_due (running : s.link.state = .running) (due : s.sched.roundDue = true) :
    afterRemoval s = startRound s := by
  rcases afterRemoval_cases s with ⟨starting, -, -⟩ | ⟨-, -, follows⟩ | ⟨-, not_due, -⟩
  · simp [running] at starting
  · exact follows
  · exact absurd ⟨running, due⟩ not_due

theorem afterRemoval_of_neither (not_discovered : s.link.state = .starting → s.sched.discovery ≠ [])
    (not_due : s.link.state = .running → ¬s.sched.roundDue = true) : afterRemoval s = s := by
  rcases afterRemoval_cases s with ⟨starting, empty, -⟩ | ⟨running, due, -⟩ | ⟨-, -, follows⟩
  · exact absurd empty (not_discovered starting)
  · exact absurd due (not_due running)
  · exact follows

end

/-- Settles O43, by the link state and by whether discovery is complete or a round is due. -/
theorem whatFollowsARemoval : Obligations.WhatFollowsARemoval := by
  refine fun s => ⟨afterRemoval_of_discovered, fun running empty elapsed => ?_, fun starting left => ?_,
    fun running not_due => ?_, fun not_starting not_running => ?_⟩
  · exact afterRemoval_of_due running ((roundDue_iff _).mpr ⟨elapsed, empty⟩)
  · exact afterRemoval_of_neither (fun _ => left) (fun running => by simp [starting] at running)
  · refine afterRemoval_of_neither (fun starting => by simp [running] at starting) fun _ due => ?_
    obtain ⟨elapsed, empty⟩ := (roundDue_iff _).mp due
    rcases not_due with left | ⟨not_expired, has_expiry⟩
    · exact left empty
    · exact elapsed.elim not_expired has_expiry
  · exact afterRemoval_of_neither (absurd · not_starting) (absurd · not_running)

/-! ### The stations with work -/

/-- The first station of the table that passes a test is the lowest that does. -/
theorem find?_allStations_eq_some {p : StationId → Bool} {n : StationId} (passes : p n = true)
    (lowest : ∀ m, p m = true → n ≤ m) : allStations.find? p = some n := by
  have none_below : ∀ m, m < n → p m = false := fun m below =>
    Bool.eq_false_iff.mpr fun hm => absurd below (lowest m hm).not_gt
  exact Fin.find?_eq_find?_finRange.symm.trans (Fin.find?_eq_some_iff.mpr ⟨passes, none_below⟩)

theorem find?_allStations_eq_none {p : StationId → Bool} (h : ∀ n, ¬p n = true) : allStations.find? p = none :=
  List.find?_eq_none.mpr fun n _ => h n

theorem served_and_iff (st : Station) (flag : Bool) :
    (st.served && flag) = true ↔ (st.state = .online ∨ st.state = .degraded) ∧ flag = true := by
  rw [Bool.and_eq_true, served_iff]

/-! ### The job of a choice, by the orders of R96 and R97 -/

section
variable {s : State}

theorem availableJob?_of_other_state (not_starting : s.link.state ≠ .starting) (not_running : s.link.state ≠ .running) :
    s.availableJob? = none := by
  unfold State.availableJob?
  split
  · next starting => exact absurd starting not_starting
  · next running => exact absurd running not_running
  all_goals rfl

theorem availableJob?_of_starting (h : s.link.state = .starting) : s.availableJob? = s.startingJob? := by
  simp [State.availableJob?, h]

theorem availableJob?_of_running (h : s.link.state = .running) : s.availableJob? = s.runningJob? := by
  simp [State.availableJob?, h]

theorem availableJob?_of_mark (h : s.link.state = .starting ∨ s.link.state = .running)
    (mark : s.time.pendingMark = true) : s.availableJob? = some .timeMark := by
  rcases h with starting | running
  · exact (availableJob?_of_starting starting).trans (if_pos mark)
  · exact (availableJob?_of_running running).trans (if_pos mark)

theorem startingJob?_without_mark (no_mark : s.time.pendingMark = false) :
    s.startingJob? = s.sched.discovery.head?.map (fun n => .probe .discovery n) := by
  simp [State.startingJob?, no_mark]

theorem runningJob?_of_resync {n : StationId} (no_mark : s.time.pendingMark = false)
    (work : s.resyncWork? = some n) : s.runningJob? = some (.probe .resync n) := by
  simp [State.runningJob?, no_mark, work]

theorem runningJob?_of_ack {n : StationId} (no_mark : s.time.pendingMark = false) (no_resync : s.resyncWork? = none)
    (work : s.ackWork? = some n) : s.runningJob? = some (.attnAck n) := by
  simp [State.runningJob?, no_mark, no_resync, work]

theorem runningJob?_of_burst (no_mark : s.time.pendingMark = false) (no_resync : s.resyncWork? = none)
    (no_ack : s.ackWork? = none) : s.runningJob? = s.burstJob? := by
  simp [State.runningJob?, no_mark, no_resync, no_ack]

/-! ### The burst rule (R101) -/

/-- R10, R25: the job of a slot whose address names a station. -/
theorem requestJob?_of_address {k : SlotId} {n : StationId} (h : (s.slot k).station = address n) :
    s.requestJob? k = some (.request k (s.slot k).kind n (s.station n).nextToggle) := by
  simp [State.requestJob?, h]

theorem burstJob?_of_full {i : RoundItem} {rest : List RoundItem} (items : s.sched.roundList = i :: rest)
    (full : s.link.config.burst.toNat ≤ s.sched.burstCounter) : s.burstJob? = some i.job := by
  simp [State.burstJob?, items, full]

theorem burstJob?_of_chosen {k : SlotId}
    (h : s.sched.roundList = [] ∨ ¬s.link.config.burst.toNat ≤ s.sched.burstCounter)
    (chosen : s.chosenSlot? = some k) : s.burstJob? = s.requestJob? k := by
  unfold State.burstJob?
  split
  · next items =>
    have not_full := h.resolve_left (by simp [items])
    simp [not_full, chosen]
  · simp [chosen]

theorem burstJob?_of_none_chosen (chosen : s.chosenSlot? = none) :
    s.burstJob? = s.sched.roundList.head?.map RoundItem.job := by
  unfold State.burstJob?
  split
  · next items => simp [items, chosen]
  · next empty => simp [empty, chosen]

end

/-- Settles O39: the precedence by the link state and the work there is, then the burst rule by the round list and the
slot chosen. -/
theorem choicePrecedenceAndBurstRule : Obligations.ChoicePrecedenceAndBurstRule := by
  refine ⟨fun s => ?_, fun s => ?_⟩
  · dsimp only
    simp only [← served_and_iff]
    refine ⟨availableJob?_of_other_state, availableJob?_of_mark, fun starting no_mark => ?_,
      fun running no_mark => ?_⟩
    · rw [availableJob?_of_starting starting, startingJob?_without_mark no_mark]
      exact ⟨fun n rest entries => by rw [entries]; rfl, fun empty => by rw [empty]; rfl⟩
    · rw [availableJob?_of_running running]
      refine ⟨fun n work lowest => ?_, fun no_resync => ⟨fun n work lowest => ?_, fun no_ack => ?_⟩⟩
      · exact runningJob?_of_resync no_mark (find?_allStations_eq_some work lowest)
      · exact runningJob?_of_ack no_mark (find?_allStations_eq_none no_resync) (find?_allStations_eq_some work lowest)
      · exact runningJob?_of_burst no_mark (find?_allStations_eq_none no_resync) (find?_allStations_eq_none no_ack)
  · refine ⟨fun i rest items full => ?_, fun open_burst k n chosen station => ?_, fun i rest items none_chosen => ?_,
      fun empty none_chosen => ?_⟩
    · exact burstJob?_of_full items full
    · rw [burstJob?_of_chosen open_burst chosen, requestJob?_of_address station]
    · rw [burstJob?_of_none_chosen none_chosen, items]
      rfl
    · rw [burstJob?_of_none_chosen none_chosen, empty]
      rfl

end Sys2Proof.Machine
end

section
/-! SUPPORT. The attention unit: CLEARATTN by the entry it names, and step 2 of a report by what its reply shows. -/

namespace Sys2Proof.Machine

/-! ### CLEARATTN, by the state, the latch and the mode of the entry (R121) -/

section
variable {st : Station}

theorem clearAttn_of_unused (h : st.state = .unused) : st.clearAttn = (st, .wrongState) := if_pos h

theorem clearAttn_of_clear (used : st.state ≠ .unused) (clear : st.latch = false) : st.clearAttn = (st, .ok) := by
  simp [Station.clearAttn, used, clear]

theorem clearAttn_of_level (used : st.state ≠ .unused) (latched : st.latch = true) (level : st.mode = .level) :
    st.clearAttn = ({ st with latch := false, attnCode := 0 }, .ok) := by
  simp [Station.clearAttn, used, latched, level]

theorem clearAttn_of_edge (used : st.state ≠ .unused) (latched : st.latch = true) (edge : st.mode = .edge) :
    st.clearAttn = ({ st with latch := false, attnCode := 0, ackPending := true }, .ok) := by
  simp [Station.clearAttn, used, latched, edge]

end

/-- R171: a command with a station number, whose argument names no station, gives BADARG and changes nothing else. -/
theorem withStation_of_no_station {f : StationId → State → State × ResultCode} {s : State}
    (h : s.host.cmdarg.toNat = 0 ∨ 31 < s.host.cmdarg.toNat) : withStation f s = (s, .badArg) := by
  simp only [withStation, stationOfByte?_eq_none h]

theorem exec_clearattn {s : State} (hr : s.inReset = false) :
    exec .clearattn s =
      .next ((withStation clearStationAttn s).1.setCmdres (withStation clearStationAttn s).2) :=
  exec_of_released rfl hr

/-- CLEARATTN of a station writes what `clearAttn` makes of its entry, and leaves its result code in CMDRES. -/
theorem exec_clearattn_of_station {s : State} {n : StationId} {st : Station} {code : ResultCode}
    (hr : s.inReset = false) (hn : s.host.cmdarg.toNat = n.val + 1) (entry : (s.station n).clearAttn = (st, code)) :
    exec .clearattn s = .next ((s.setStation n st).setCmdres code) := by
  rw [exec_clearattn hr, withStation_of_eq hn, clearStationAttn, entry]

/-- Settles O11: the four rows by the entry that the argument names, then the arguments that name none. -/
theorem clearAttentionCommand : Obligations.ClearAttentionCommand := by
  refine ⟨fun s n hr hn => ⟨fun unused => ?_, fun used clear => ?_, fun used latched level => ?_,
    fun used latched edge => ?_⟩, fun s hr no_station => ?_⟩
  · rw [exec_clearattn_of_station hr hn (clearAttn_of_unused unused), setStation_self]
    rfl
  · rw [exec_clearattn_of_station hr hn (clearAttn_of_clear used clear), setStation_self]
    rfl
  · exact exec_clearattn_of_station hr hn (clearAttn_of_level used latched level)
  · exact exec_clearattn_of_station hr hn (clearAttn_of_edge used latched edge)
  · have out_of_range : s.host.cmdarg.toNat = 0 ∨ 31 < s.host.cmdarg.toNat :=
      no_station.imp_left fun zero => by rw [zero]; rfl
    rw [exec_clearattn hr, withStation_of_no_station out_of_range]
    rfl

/-! ### What a report makes of ack-pending (R123) -/

theorem acknowledged_of_good_ack {r : Report} {n : StationId} (job : r.job = .attnAck n) (good : r.outcome = .good)
    (st : Station) : st.acknowledged r = { st with ackPending := false } := by
  simp [Station.acknowledged, job, good]

theorem acknowledged_of_other_job {r : Report} (h : ∀ n, r.job ≠ .attnAck n) (st : Station) :
    st.acknowledged r = st := by
  unfold Station.acknowledged
  split
  · next n job _ => exact absurd job (h n)
  · rfl

/-- R123: the acknowledgement changes ack-pending alone, and only for a GOOD ATTNACK. -/
theorem acknowledged_eq {r : Report} {n : StationId} (target : r.job.station? = some n) (st : Station) :
    st.acknowledged r =
      { st with ackPending := if decide (r.job = .attnAck n ∧ r.outcome = .good) then false else st.ackPending } := by
  by_cases acked : r.job = .attnAck n ∧ r.outcome = .good
  · obtain ⟨job, good⟩ := acked
    simp [acknowledged_of_good_ack job good, job, good]
  · have kept : st.acknowledged r = st := by
      by_cases good : r.outcome = .good
      · refine acknowledged_of_other_job (fun m job => acked ⟨?_, good⟩) st
        have same : m = n := by simpa [job, Job.station?] using target
        rw [job, same]
      · exact Station.acknowledged_of_not_good good st
    simp [kept, acked]

/-! ### Step 2 of a report, by its reply (R115 to R117) -/

theorem setStation_setStation (s : State) (n : StationId) (x y : Station) :
    (s.setStation n x).setStation n y = s.setStation n y := by
  simp [State.setStation, State.setStations]

/-- R115: only a station that is ONLINE or DEGRADED has its report taken. -/
theorem attentionStep_of_not_served {r : Report} {s : State}
    (h : ∀ n, r.job.station? = some n → (s.station n).served = false) : attentionStep r s = s := by
  unfold attentionStep
  split
  · rfl
  · next n target => simp [h n target]

/-- R115, R123: an outcome without a reply leaves the whole state as it is. -/
theorem attentionStep_eq_of_no_reply {r : Report} (not_good : r.outcome ≠ .good) (no_reply : r.reply = none)
    (s : State) : attentionStep r s = s := by
  unfold attentionStep
  split
  · rfl
  · simp [no_reply, Station.acknowledged_of_not_good not_good]

section
variable {r : Report} {s : State} {n : StationId} {p : Reply} (target : r.job.station? = some n)
  (reply : r.reply = some p) (served : (s.station n).served = true)
include target reply served

theorem attentionStep_of_reply :
    attentionStep r s = takeAttention n p r.endTime (s.setStation n ((s.station n).acknowledged r)) := by
  simp [attentionStep, target, reply, served]

/-- R116, R117: a new attention is latched with its code, and offered with the end time of the exchange. -/
theorem attentionStep_of_latching (new : ((s.station n).acknowledged r).latches p = true) :
    attentionStep r s =
      (s.setStation n (((s.station n).acknowledged r).latchCode p.code)).offer
        { kind := .attn, station := n, code := p.code, time := r.endTime } := by
  rw [attentionStep_of_reply target reply served]
  simp [takeAttention, new, setStation_setStation]

/-- R116: a reply that shows no new attention leaves what the acknowledgement left. -/
theorem attentionStep_of_not_latching (old : ((s.station n).acknowledged r).latches p = false) :
    attentionStep r s = s.setStation n ((s.station n).acknowledged r) := by
  rw [attentionStep_of_reply target reply served]
  simp [takeAttention, old]

end

theorem latches_iff (st : Station) (p : Reply) :
    st.latches p = true ↔ p.attention = true ∧ st.ackPending = false ∧ st.latch = false := by
  simp [Station.latches, and_assoc]

theorem latches_eq_false_iff (st : Station) (p : Reply) :
    st.latches p = false ↔ p.attention = false ∨ st.ackPending = true ∨ st.latch = true := by
  simp only [Station.latches, Bool.and_eq_false_iff, Bool.not_eq_false', or_assoc]

/-- Settles O48: the reports that change nothing, then a reply by whether it shows a new attention once the
acknowledgement is taken. -/
theorem attentionOfAReport : Obligations.AttentionOfAReport := by
  refine ⟨fun r s unchanged => ?_, fun r s n p target reply live => ?_⟩
  · rcases unchanged with ⟨no_reply, outcome⟩ | not_live
    · have not_good : r.outcome ≠ .good := by
        rcases outcome with h | h | h | h <;> simp [h]
      exact attentionStep_eq_of_no_reply not_good no_reply s
    · refine attentionStep_of_not_served fun n target => ?_
      rw [Bool.eq_false_iff, Ne, served_iff, not_or]
      exact not_live n target
  · have served : (s.station n).served = true := (served_iff _).mpr live
    have acknowledged := acknowledged_eq target (s.station n)
    dsimp only
    refine ⟨fun shown no_ack clear => ?_, fun not_new => ?_, fun m other => ?_, attentionStep_frame r s⟩
    · have new : ((s.station n).acknowledged r).latches p = true := by
        rw [acknowledged, latches_iff]
        exact ⟨shown, no_ack, clear⟩
      rw [attentionStep_of_latching target reply served new, acknowledged, no_ack]
      exact ⟨setStation_station_same .., rfl⟩
    · have old : ((s.station n).acknowledged r).latches p = false := by
        rw [acknowledged, latches_eq_false_iff]
        exact not_new
      rw [attentionStep_of_not_latching target reply served old, acknowledged]
      exact ⟨setStation_station_same .., rfl⟩
    · refine attentionStep_other fun same => other ?_
      exact Option.some.inj (same.symm.trans target)

end Sys2Proof.Machine
end

section
/-! SUPPORT. POP, and the writes to the settings of the notification unit, the interrupt enables and the sticky flags: the
range that each operand check stands for, and the state that each write leaves. -/

namespace Sys2Proof.Machine

/-! ### POP -/

theorem popQueue_of_empty {s : State} (h : s.notes.queue = []) : popQueue s = (s, .empty) := by
  simp [popQueue, h]

theorem popQueue_of_head {s : State} {n : Notification} {rest : List Notification} (h : s.notes.queue = n :: rest) :
    popQueue s = (s.setNotes { s.notes with queue := rest }, .ok) := by
  simp [popQueue, h]

theorem exec_pop {s : State} (hr : s.inReset = false) :
    exec .pop s = .next ((popQueue s).1.setCmdres (popQueue s).2) := exec_of_released rfl hr

/-- Settles O14: POP by whether the queue has a head. -/
theorem popCommand : Obligations.PopCommand := by
  refine fun s hr => ⟨fun n rest head => ?_, fun empty => ?_⟩
  · rw [exec_pop hr, popQueue_of_head head]
    rfl
  · rw [exec_pop hr, popQueue_of_empty empty]
    rfl

/-! ### The sticky flags -/

/-- Writing 1 clears a sticky flag, writing 0 keeps it. -/
theorem and_not_eq_clear (flag bit : Bool) : (flag && !bit) = if bit then false else flag := by
  cases bit <;> simp

/-- R174: a flag of LINKSTAT whose bit is written 1 is cleared, and one whose bit is written 0 is kept. -/
theorem writeLinkstat_eq (v : Byte) (s : State) :
    writeLinkstat v s =
      { s with
        sched := { s.sched with rlate := if v.getLsbD 6 then false else s.sched.rlate }
        link := { s.link with wrej := if v.getLsbD 7 then false else s.link.wrej } } := by
  simp only [writeLinkstat, and_not_eq_clear]
  rfl

/-- R175: OVR and LINK go with their bits of ISTAT, and NQOVR goes with OVR (R136). -/
theorem writeIstat_eq (v : Byte) (s : State) :
    writeIstat v s =
      { s with
        notes :=
          { s.notes with
            ovr := if v.getLsbD 2 then false else s.notes.ovr
            nqovr := if v.getLsbD 2 then 0 else s.notes.nqovr }
        link := { s.link with link := if v.getLsbD 3 then false else s.link.link } } := by
  simp only [writeIstat, and_not_eq_clear]
  rfl

/-- Settles O19: each row is the whole write to its register. -/
theorem stickyFlagClears : Obligations.StickyFlagClears := by
  intro v s hr
  have linkstat : exec (.clearRlate v) s = .next (writeLinkstat v s) ∧ exec (.clearWrej v) s = .next (writeLinkstat v s) :=
    ⟨exec_of_released rfl hr, exec_of_released rfl hr⟩
  have istat : exec (.clearOvr v) s = .next (writeIstat v s) ∧ exec (.clearLink v) s = .next (writeIstat v s) :=
    ⟨exec_of_released rfl hr, exec_of_released rfl hr⟩
  rw [writeLinkstat_eq] at linkstat
  rw [writeIstat_eq] at istat
  exact ⟨linkstat.1, linkstat.2, istat.1, istat.2⟩

/-! ### What the bits of an operand say of its range -/

/-- The bits of a byte from bit `k` up are all 0 exactly when its value is below 2 to the `k`. -/
theorem high_bits_eq_zero_iff (v : Byte) {k len : Nat} (h : k + len = 8) :
    v.extractLsb' k len = 0 ↔ v.toNat < 2 ^ k := by
  have below : v.toNat / 2 ^ k < 2 ^ len :=
    Nat.div_lt_of_lt_mul (by rw [← Nat.pow_add, h]; exact v.isLt)
  rw [← BitVec.toNat_inj, BitVec.extractLsb'_toNat, BitVec.ofNat_eq_ofNat, BitVec.toNat_zero, Nat.shiftRight_eq_div_pow,
    Nat.mod_eq_of_lt below, Nat.div_eq_zero_iff]
  simp

theorem bit_seven_iff (v : Byte) : v.getLsbD 7 = true ↔ 128 ≤ v.toNat := by
  have msb : v.msb = v.getLsbD 7 := rfl
  rw [← msb, BitVec.msb_eq_decide, decide_eq_true_iff]

theorem ofBool_eq (drop : Bool) : FilterAction.ofBool drop = if drop then .drop else .accept := by cases drop <;> rfl

/-! ### NTHRESH, IENAB and FDEFAULT -/

section
variable {v : Byte}

theorem nthresh?_of_range (h : 1 ≤ v.toNat ∧ v.toNat ≤ 16) : nthresh? v = some v := if_pos h

theorem nthresh?_eq_none (h : v.toNat = 0 ∨ 16 < v.toNat) : nthresh? v = none := if_neg (by omega)

theorem ienab?_of_range (h : v.toNat < 16) : ienab? v = some (v.extractLsb' 0 4) :=
  if_pos ((high_bits_eq_zero_iff v rfl).mpr h)

theorem ienab?_eq_none (h : 16 ≤ v.toNat) : ienab? v = none :=
  if_neg fun clear => Nat.not_le.mpr ((high_bits_eq_zero_iff v (k := 4) rfl).mp clear) h

theorem fdefault?_eq_none (h : 1 < v.toNat) : fdefault? v = none :=
  if_neg fun clear => Nat.not_le.mpr ((high_bits_eq_zero_iff v (k := 1) rfl).mp clear) h

section
variable (s : State)

theorem writeNthresh_of_range (h : 1 ≤ v.toNat ∧ v.toNat ≤ 16) :
    writeNthresh v s = s.setNotes { s.notes with nthresh := v } := by
  simp only [writeNthresh, nthresh?_of_range h]

theorem writeNthresh_of_out_of_range (h : v.toNat = 0 ∨ 16 < v.toNat) : writeNthresh v s = s.rejectWrite := by
  simp only [writeNthresh, nthresh?_eq_none h]

theorem writeIenab_of_range (h : v.toNat < 16) :
    writeIenab v s = s.setHost { s.host with ienab := v.extractLsb' 0 4 } := by
  simp only [writeIenab, ienab?_of_range h]

theorem writeIenab_of_out_of_range (h : 16 ≤ v.toNat) : writeIenab v s = s.rejectWrite := by
  simp only [writeIenab, ienab?_eq_none h]

theorem writeFdefault_of_out_of_range (h : 1 < v.toNat) : writeFdefault v s = s.rejectWrite := by
  simp only [writeFdefault, fdefault?_eq_none h]

end
end

/-- Settles O20: each register by the range its value lies in. -/
theorem thresholdEnableAndDefaultWrites : Obligations.ThresholdEnableAndDefaultWrites := by
  intro v s hr
  dsimp only
  have nthresh : exec (.nthreshWrite v) s = .next (writeNthresh v s) := exec_of_released rfl hr
  have ienab : exec (.ienabWrite v) s = .next (writeIenab v s) := exec_of_released rfl hr
  have fdefault : exec (.fdefaultWrite v) s = .next (writeFdefault v s) := exec_of_released rfl hr
  rw [nthresh, ienab, fdefault]
  refine ⟨fun range => ?_, fun out => ?_, fun range => ?_, fun out => ?_, fun accept => ?_, fun drop => ?_, fun out => ?_⟩
  · rw [writeNthresh_of_range s range]
    rfl
  · rw [writeNthresh_of_out_of_range s out]
    rfl
  · rw [writeIenab_of_range s range]
    rfl
  · rw [writeIenab_of_out_of_range s out]
    rfl
  · rw [accept]
    rfl
  · rw [drop]
    rfl
  · rw [writeFdefault_of_out_of_range s out]
    rfl

/-! ### The fields of a filter entry -/

section
variable {v : Byte} (e : FilterEntry)

theorem writeField?_factv (h : v.toNat < 4) :
    e.writeField? .factv v =
      some { e with active := v.getLsbD 0, action := if v.getLsbD 1 then .drop else .accept } := by
  rw [← ofBool_eq]
  exact if_pos ((high_bits_eq_zero_iff v rfl).mpr h)

theorem writeField?_factv_eq_none (h : 4 ≤ v.toNat) : e.writeField? .factv v = none :=
  if_neg fun clear => Nat.not_le.mpr ((high_bits_eq_zero_iff v (k := 2) rfl).mp clear) h

theorem writeField?_fkinds (h : v.toNat < 128) :
    e.writeField? .fkinds v = some { e with kinds := v.extractLsb' 0 7 } :=
  if_neg fun bit => Nat.not_le.mpr h ((bit_seven_iff v).mp bit)

theorem writeField?_fkinds_eq_none (h : 128 ≤ v.toNat) : e.writeField? .fkinds v = none :=
  if_pos ((bit_seven_iff v).mpr h)

theorem writeField?_station {n : StationId} (h : v.toNat = n.val + 1) :
    e.writeField? .fslo v = some { e with stationLow := n } ∧
      e.writeField? .fshi v = some { e with stationHigh := n } := by
  simp [FilterEntry.writeField?, stationOfByte?_of_eq h]

theorem writeField?_station_eq_none (h : v.toNat = 0 ∨ 31 < v.toNat) :
    e.writeField? .fslo v = none ∧ e.writeField? .fshi v = none := by
  simp [FilterEntry.writeField?, stationOfByte?_eq_none h]

end

section
variable {f : FilterField} {v : Byte} {s : State}

theorem writeFilter_of_taken {e : FilterEntry} (h : (s.notes.filters[s.host.fsel]).writeField? f v = some e) :
    writeFilter f v s = s.setNotes { s.notes with filters := s.notes.filters.set s.host.fsel e } := by
  simp only [writeFilter, h]

theorem writeFilter_of_out_of_range (h : (s.notes.filters[s.host.fsel]).writeField? f v = none) :
    writeFilter f v s = s.rejectWrite := by
  simp only [writeFilter, h]

end

/-- Settles O21: each field of the selected entry by the range its value lies in. -/
theorem filterWrites : Obligations.FilterWrites := by
  intro v s hr
  dsimp only
  have effect (f : FilterField) : exec (.filterWrite f v) s = .next (writeFilter f v s) := exec_of_released rfl hr
  simp only [effect]
  refine ⟨fun range => ?_, fun out => ?_, fun range => ?_, fun out => ?_, fun n range => ?_, fun out => ?_, ?_, ?_⟩
  · rw [writeFilter_of_taken (writeField?_factv _ range)]
    rfl
  · rw [writeFilter_of_out_of_range (writeField?_factv_eq_none _ out)]
    rfl
  · rw [writeFilter_of_taken (writeField?_fkinds _ range)]
    rfl
  · rw [writeFilter_of_out_of_range (writeField?_fkinds_eq_none _ out)]
    rfl
  · obtain ⟨low, high⟩ := writeField?_station (s.notes.filters[s.host.fsel]) range
    rw [writeFilter_of_taken low, writeFilter_of_taken high]
    exact ⟨rfl, rfl⟩
  · obtain ⟨low, high⟩ := writeField?_station_eq_none (s.notes.filters[s.host.fsel]) out
    rw [writeFilter_of_out_of_range low, writeFilter_of_out_of_range high]
    exact ⟨rfl, rfl⟩
  · rw [writeFilter_of_taken rfl]
    rfl
  · rw [writeFilter_of_taken rfl]
    rfl

end Sys2Proof.Machine
end

section
/-! SUPPORT. The notification unit: the filter's verdict by the first entry that matches (R131, R132), what an accepted
offer does to the queue (R135, R136), and the two offers of a probe that finds a station showing attention (R129). -/

namespace Sys2Proof.Machine

/-! ### The filter's verdict -/

theorem hits_iff (e : FilterEntry) (n : Notification) :
    e.hits n = true ↔
      e.active = true ∧ e.kinds.getLsbD n.kind.bit = true ∧ e.stationLow ≤ n.station ∧ n.station ≤ e.stationHigh ∧
        e.codeLow.toNat ≤ n.code.toNat ∧ n.code.toNat ≤ e.codeHigh.toNat := by
  simp only [FilterEntry.hits, Bool.and_eq_true, decide_eq_true_iff, BitVec.le_def, and_assoc]

/-- R131: an inactive entry does not match. -/
theorem not_hits_of_inactive {e : FilterEntry} (h : e.active = false) (n : Notification) : ¬e.hits n = true := by
  simp [FilterEntry.hits, h]

section
variable {u : NotificationUnit} {n : Notification}

/-- R132: the first entry that matches decides. -/
theorem verdict_of_first_hit {f : FilterId} (hit : u.filters[f].hits n = true)
    (first : ∀ g, g < f → ¬u.filters[g].hits n = true) : u.verdict n = u.filters[f].action := by
  have found : u.filters.toList.find? (fun e => e.hits n) = some u.filters[f] := by
    refine List.find?_eq_some_iff_getElem.mpr ⟨hit, f.val, by simp, by simp, fun j before => ?_⟩
    have not_hit := first ⟨j, by omega⟩ before
    simpa using not_hit
  simp only [NotificationUnit.verdict, found]

/-- R132: FDEFAULT decides where no entry matches. -/
theorem verdict_of_no_hit (h : ∀ f : FilterId, ¬u.filters[f].hits n = true) : u.verdict n = u.fdefault := by
  have none_found : u.filters.toList.find? (fun e => e.hits n) = none := by
    refine List.find?_eq_none.mpr fun e member => ?_
    obtain ⟨j, bound, rfl⟩ := List.getElem_of_mem member
    have not_hit := h ⟨j, by simpa using bound⟩
    simpa using not_hit
  simp only [NotificationUnit.verdict, none_found]

/-- R132: the entry that decides is the first of those that match. -/
theorem exists_first_hit (h : ∃ f : FilterId, u.filters[f].hits n = true) :
    ∃ f : FilterId, u.filters[f].hits n = true ∧ ∀ g, g < f → ¬u.filters[g].hits n = true := by
  obtain ⟨f, least⟩ := exists_minimal_of_wellFoundedLT (fun f : FilterId => u.filters[f].hits n = true) h
  exact ⟨f, least.prop, fun g before => least.not_prop_of_lt before⟩

theorem verdict_eq_accept_iff :
    u.verdict n = .accept ↔
      (∃ f : FilterId, u.filters[f].hits n = true ∧ (∀ g, g < f → ¬u.filters[g].hits n = true) ∧
        u.filters[f].action = .accept) ∨
        ((∀ f : FilterId, ¬u.filters[f].hits n = true) ∧ u.fdefault = .accept) := by
  constructor
  · intro accept
    by_cases some_hit : ∃ f : FilterId, u.filters[f].hits n = true
    · obtain ⟨f, hit, first⟩ := exists_first_hit some_hit
      exact Or.inl ⟨f, hit, first, verdict_of_first_hit hit first ▸ accept⟩
    · have no_hit := not_exists.mp some_hit
      exact Or.inr ⟨no_hit, verdict_of_no_hit no_hit ▸ accept⟩
  · rintro (⟨f, hit, first, action⟩ | ⟨no_hit, fdefault⟩)
    · rw [verdict_of_first_hit hit first, action]
    · rw [verdict_of_no_hit no_hit, fdefault]

/-! ### The offer, by the verdict and by the room in the queue -/

/-- R132: a dropped notification leaves no trace. -/
theorem offer_of_not_accepted (h : ¬u.verdict n = .accept) : u.offer n = u := by
  unfold NotificationUnit.offer
  split
  · contradiction
  · rfl

theorem offer_of_accepted (h : u.verdict n = .accept) : u.offer n = u.join n := by
  simp only [NotificationUnit.offer, h]

/-- R135: an accepted notification joins the tail of a queue with room. -/
theorem join_of_room (h : u.queue.length < 16) : u.join n = { u with queue := u.queue ++ [n] } := if_pos h

/-- R135, R136: on a full queue it is an overrun, counted up to 255. -/
theorem join_of_full (h : 16 ≤ u.queue.length) :
    u.join n = { u with ovr := true, nqovr := if u.nqovr.toNat < 255 then u.nqovr + 1 else u.nqovr } := by
  have overrun : u.join n = { u with nqovr := if u.nqovr = 255 then 255 else u.nqovr + 1, ovr := true } :=
    if_neg (Nat.not_lt.mpr h)
  have saturated : u.nqovr = 255 ↔ ¬u.nqovr.toNat < 255 := by
    rw [← BitVec.toNat_inj]
    have := u.nqovr.isLt
    simp
    omega
  rw [overrun]
  by_cases full : u.nqovr = 255
  · simp [full]
  · rw [if_neg full, if_pos (not_not.mp (mt saturated.mpr full))]

/-- R131, R132, R135: with the filter inactive and FDEFAULT at ACCEPT every offer joins a queue with room. -/
theorem offer_queue_of_inactive_filter (inactive : ∀ f : FilterId, u.filters[f].active = false)
    (fdefault : u.fdefault = .accept) (room : u.queue.length < 16) : (u.offer n).queue = u.queue ++ [n] := by
  have accept : u.verdict n = .accept := by
    rw [verdict_of_no_hit fun f => not_hits_of_inactive (inactive f) n, fdefault]
  rw [offer_of_accepted accept, join_of_room room]

end

/-- Settles O50: the verdict by the first entry that matches, and an accepted offer by the room in the queue. -/
theorem filterAndQueueOfAnOffer : Obligations.FilterAndQueueOfAnOffer := by
  intro u n bit hit accepted
  have verdict : u.verdict n = .accept ↔ accepted := by
    simp only [verdict_eq_accept_iff, hits_iff]
    rfl
  refine ⟨fun not_accepted => ?_, fun yes room => ?_, fun yes full => ?_⟩
  · exact offer_of_not_accepted (mt verdict.mp not_accepted)
  · rw [offer_of_accepted (verdict.mpr yes), join_of_room room]
  · rw [offer_of_accepted (verdict.mpr yes), join_of_full full]

/-! ### The offers of a report -/

/-- R37: only the first two steps of a report offer notifications. -/
theorem takeReport_notes (r : Report) (s : State) :
    (takeReport r s).notes = (attentionStep r (stationStep r (s.setEngine none)).1).notes := by
  rw [takeReport_eq]
  simp

/-- R47, R52, R117: a GOOD probe that finds a station showing attention offers FOUND with the type, and then ATTN with
the code. -/
theorem takeReport_notes_of_find {r : Report} {s : State} {n : StationId} {purpose : ProbePurpose} {p : Reply}
    (job : r.job = .probe purpose n) (good : r.outcome = .good) (reply : r.reply = some p) (shown : p.attention = true)
    (absent : (s.station n).state = .absent) (clear : (s.station n).latch = false)
    (no_ack : (s.station n).ackPending = false) :
    (takeReport r s).notes =
      (s.notes.offer { kind := .found, station := n, code := p.payload.getD 0 0, time := r.endTime }).offer
        { kind := .attn, station := n, code := p.code, time := r.endTime } := by
  have target : r.job.station? = some n := by rw [job]; rfl
  have found : stationStep r (s.setEngine none) = _ :=
    stationStep_of_transition target (Station.report_finds absent job good reply) (by simp)
  have entry : (stationStep r (s.setEngine none)).1.station n = (s.station n).find p := by
    rw [found, offer_station, setStation_station_same]
    rfl
  have served : ((stationStep r (s.setEngine none)).1.station n).served = true := by rw [entry]; rfl
  have new : (((stationStep r (s.setEngine none)).1.station n).acknowledged r).latches p = true := by
    rw [entry, acknowledged_of_other_job (by simp [job]), latches_iff]
    exact ⟨shown, no_ack, clear⟩
  rw [takeReport_notes, attentionStep_of_latching target reply served new, found]
  rfl

/-- Settles O49: both offers join, since the first one leaves the filter as it is and a free place. -/
theorem foundIsOfferedBeforeAttention : Obligations.FoundIsOfferedBeforeAttention := by
  intro r s n purpose p job good reply shown absent clear no_ack inactive fdefault room
  have first (x : Notification) : (s.notes.offer x).queue = s.notes.queue ++ [x] :=
    offer_queue_of_inactive_filter inactive fdefault (by omega)
  have second (x y : Notification) : ((s.notes.offer x).offer y).queue = (s.notes.offer x).queue ++ [y] := by
    obtain ⟨same_filters, same_default, -⟩ := offer_settings s.notes x
    refine offer_queue_of_inactive_filter (fun f => ?_) (same_default.trans fdefault) ?_
    · rw [same_filters]
      exact inactive f
    · rw [first, List.length_append, List.length_singleton]
      omega
  rw [takeReport_notes_of_find job good reply shown absent clear no_ack, second, first, List.append_assoc]
  rfl

end Sys2Proof.Machine
end

section
/-! SUPPORT. The order of the notification queue over every row: what leaves it, what takes its head, and the reports that
put entries behind its tail. -/

namespace Sys2Proof.Machine

/-- R134: `t` has the queue of `s` with entries joined at its tail, and within its capacity where `s` was. -/
def State.queueJoined (s t : State) : Prop :=
  (∃ l, t.notes.queue = s.notes.queue ++ l) ∧ (s.notes.queue.length ≤ 16 → t.notes.queue.length ≤ 16)

/-! ### What keeps the order -/

section
variable {s t : State}

theorem queueJoined_of_queue (e : t.notes.queue = s.notes.queue) : s.queueJoined t := by
  refine ⟨⟨[], ?_⟩, fun h => ?_⟩
  · rw [e, List.append_nil]
  · rw [e]
    exact h

theorem queueJoined_of_notes (e : t.notes = s.notes) : s.queueJoined t := queueJoined_of_queue (by rw [e])

theorem takeReport_queueJoined (r : Report) (s : State) : s.queueJoined (takeReport r s) :=
  ⟨takeReport_queue r s, takeReport_queue_length r s⟩

/-- The events of the line leave the queue, or put the offers of a report behind it. -/
theorem queueJoined_of_lineLeads (leads : s.lineLeads t) : s.queueJoined t := by
  rcases leads with ⟨e, r, rfl⟩ | ⟨e, whole, o, reply, decided, r, -, rfl⟩
  · exact queueJoined_of_notes rfl
  · exact takeReport_queueJoined _ (s.setReceiver r)

end

/-! ### The commands -/

@[simp] theorem startRoundIfDue_notes (s : State) : (startRoundIfDue s).notes = s.notes := by
  unfold startRoundIfDue
  split <;> rfl

@[simp] theorem completeDiscovery_notes (s : State) : (completeDiscovery s).notes = s.notes := by
  unfold completeDiscovery
  split <;> rfl

@[simp] theorem startInterval_notes (s : State) : (startInterval s).notes = s.notes := by
  rw [startInterval_frame]

theorem startLink_notes (s : State) : (startLink s).1.notes = s.notes := by
  unfold startLink
  split
  · simp
  all_goals rfl

theorem stopLink_notes (s : State) : (stopLink s).1.notes = s.notes := by
  unfold stopLink
  split
  · split <;> rfl
  · split <;> rfl
  all_goals rfl

theorem holdLink_notes (s : State) : (holdLink s).1.notes = s.notes := by
  unfold holdLink
  split
  · split <;> rfl
  all_goals rfl

theorem resumeLink_notes (s : State) : (resumeLink s).1.notes = s.notes := by
  unfold resumeLink
  split
  · simp
  · simp
  all_goals rfl

theorem enableStation_notes (n : StationId) (s : State) : (enableStation n s).1.notes = s.notes := by
  unfold enableStation
  split <;> rfl

theorem disableStation_notes (n : StationId) (s : State) : (disableStation n s).1.notes = s.notes := by
  unfold disableStation
  split
  · rfl
  · split
    · rfl
    · exact afterRemoval_notes _

theorem queueSlot_notes (i : SlotId) (s : State) : (queueSlot i s).1.notes = s.notes := by
  rcases queueSlot_cases s i with same | ⟨-, queued⟩
  · rw [same]
  · rw [queued]
    rfl

theorem withdrawSlot_notes (i : SlotId) (s : State) : (withdrawSlot i s).1.notes = s.notes := by
  unfold withdrawSlot
  split <;> rfl

theorem releaseSlot_notes (i : SlotId) (s : State) : (releaseSlot i s).1.notes = s.notes := by
  unfold releaseSlot
  split <;> rfl

theorem withStation_notes {f : StationId → State → State × ResultCode}
    (hf : ∀ n s, (f n s).1.notes = s.notes) (s : State) : (withStation f s).1.notes = s.notes := by
  unfold withStation
  split
  · exact hf _ s
  · rfl

theorem withSlot_notes {f : SlotId → State → State × ResultCode}
    (hf : ∀ i s, (f i s).1.notes = s.notes) (s : State) : (withSlot f s).1.notes = s.notes := by
  unfold withSlot
  split
  · exact hf _ s
  · rfl

/-- R142: no command but POP touches the notification unit. -/
theorem issue_notes {k : CommandCode} (not_pop : k ≠ .pop) (s : State) : (issue k s).notes = s.notes :=
  match k with
  | .start => startLink_notes s
  | .stop => stopLink_notes s
  | .hold => holdLink_notes s
  | .resume => resumeLink_notes s
  | .enable => withStation_notes enableStation_notes s
  | .disable => withStation_notes disableStation_notes s
  | .clearattn => withStation_notes (fun _ _ => rfl) s
  | .queue => withSlot_notes queueSlot_notes s
  | .withdraw => withSlot_notes withdrawSlot_notes s
  | .release => withSlot_notes releaseSlot_notes s
  | .pop => absurd rfl not_pop

/-- R138: POP takes the head, and on an empty queue nothing. -/
theorem issue_pop_queue (s : State) : (issue .pop s).notes.queue = s.notes.queue.tail := by
  change (popQueue s).1.notes.queue = _
  cases queue : s.notes.queue with
  | nil =>
    rw [popQueue_of_empty queue]
    exact queue
  | cons n rest =>
    rw [popQueue_of_head queue]
    rfl

theorem code_of_ofByte? {v : Byte} {k : CommandCode} (h : CommandCode.ofByte? v = some k) : v = k.code := by
  have named := List.find?_some h
  exact (of_decide_eq_true named).symm

theorem writeCmd_pop (s : State) : writeCmd 0x30 s = issue .pop s := by
  change writeCmd CommandCode.pop.code s = _
  simp only [writeCmd, ofByte?_code]

/-- A write to CMD of any byte but POP's leaves the notification unit. -/
theorem writeCmd_notes {v : Byte} (not_pop : v ≠ 0x30) (s : State) : (writeCmd v s).notes = s.notes := by
  rcases writeCmd_cases v s with ⟨k, named, e⟩ | ⟨-, e⟩ <;> rw [e]
  · refine issue_notes (fun pop => not_pop ?_) s
    rw [code_of_ofByte? named, pop]
    rfl
  · rfl

/-! ### The writes of the registers -/

theorem writeRegister_cmd (v : Byte) (s : State) : writeRegister 0 v s = writeCmd v s := rfl

section
variable (v : Byte) (s : State)

theorem writeConfig_notes (r : ConfigRegister) : (writeConfig r v s).notes = s.notes := by
  unfold writeConfig rateWritten
  split
  · split <;> rfl
  · rfl

theorem writeSlotField_notes (f : SlotField) : (writeSlotField f v s).notes = s.notes := by
  unfold writeSlotField
  dsimp only
  split
  · split <;> rfl
  · rfl

@[simp] theorem writeSlreq_notes : (writeSlreq v s).notes = s.notes := by
  unfold writeSlreq
  dsimp only
  split <;> rfl

@[simp] theorem writeIenab_notes : (writeIenab v s).notes = s.notes := by
  unfold writeIenab
  split <;> rfl

@[simp] theorem writeSlotsel_notes : (writeSlotsel v s).notes = s.notes := by
  unfold writeSlotsel
  split <;> rfl

@[simp] theorem writeSlptr_notes : (writeSlptr v s).notes = s.notes := by
  unfold writeSlptr
  split <;> rfl

@[simp] theorem writeStasel_notes : (writeStasel v s).notes = s.notes := by
  unfold writeStasel
  split <;> rfl

@[simp] theorem writeFsel_notes : (writeFsel v s).notes = s.notes := by
  unfold writeFsel
  split <;> rfl

@[simp] theorem writeStcfg_notes : (writeStcfg v s).notes = s.notes := by
  unfold writeStcfg
  split <;> rfl

@[simp] theorem writeCmdarg_notes : (writeCmdarg v s).notes = s.notes := rfl

@[simp] theorem writeLinkstat_notes : (writeLinkstat v s).notes = s.notes := rfl

/-! ### The writes to the settings of the notification unit leave its queue -/

@[simp] theorem writeIstat_queue : (writeIstat v s).notes.queue = s.notes.queue := rfl

@[simp] theorem writeNthresh_queue : (writeNthresh v s).notes.queue = s.notes.queue := by
  unfold writeNthresh
  split <;> rfl

@[simp] theorem writeFdefault_queue : (writeFdefault v s).notes.queue = s.notes.queue := by
  unfold writeFdefault
  split <;> rfl

theorem writeFilter_queue (f : FilterField) : (writeFilter f v s).notes.queue = s.notes.queue := by
  unfold writeFilter
  split <;> rfl

/-- Every write at an address other than CMD's leaves the queue. -/
theorem writeRegister_queue {a : BitVec 6} (not_cmd : a ≠ 0) :
    (writeRegister a v s).notes.queue = s.notes.queue := by
  have address : a.toNat ≠ 0x00 := fun zero => not_cmd (BitVec.eq_of_toNat_eq zero)
  unfold writeRegister
  dsimp only
  split
  · rw [writeConfig_notes]
  · rw [writeSlotField_notes]
  · exact writeFilter_queue v s _
  · rw [if_neg address]
    simp [apply_ite State.notes, apply_ite NotificationUnit.queue]

end

/-! ### /RESET, the timers and the choice -/

theorem releaseReset_notes (rxdHigh : Bool) (s : State) : (releaseReset rxdHigh s).notes = s.notes := by
  unfold releaseReset
  split <;> rfl

theorem backoffExpires_notes (i : SlotId) (s : State) : (backoffExpires i s).notes = s.notes := by
  unfold backoffExpires
  split
  · split <;> rfl
  · rfl

theorem roundTimerExpires_notes (s : State) : (roundTimerExpires s).notes = s.notes := by
  unfold roundTimerExpires
  split
  · split
    · simp
    · rfl
  all_goals rfl

theorem intervalExpires_notes (s : State) : (intervalExpires s).notes = s.notes := by
  unfold intervalExpires
  split
  · split <;> rfl
  · rfl

theorem startExchange_notes (j : Job) (s : State) : (startExchange j s).notes = s.notes := by
  cases j <;> rfl

theorem schedulerChooses_notes (s : State) : (schedulerChooses s).notes = s.notes := by
  unfold schedulerChooses
  split
  · split
    · exact startExchange_notes _ s
    · rfl
  · rfl

/-! ### Every row -/

/-- The rows that carry the write of POP's code to CMD (log 8). -/
def popsQueue (c : Instr) : Prop := c = .pop ∨ c = .unknownCommandCode 0x30 ∨ c = .registerWrite 0 0x30

theorem rowEffect_of_popsQueue {c : Instr} (h : popsQueue c) (s : State) : rowEffect c s = issue .pop s := by
  rcases h with rfl | rfl | rfl
  · rfl
  · exact writeCmd_pop s
  · exact (writeRegister_cmd 0x30 s).trans (writeCmd_pop s)

/-- R134: the effect of a row that is neither device reset nor a POP only joins entries at the tail. -/
theorem rowEffect_queueJoined {c : Instr} (not_reset : c ≠ .deviceReset) (not_pop : ¬popsQueue c) (s : State) :
    s.queueJoined (rowEffect c s) := by
  cases c with
  | deviceReset => exact absurd rfl not_reset
  | pop => exact absurd (Or.inl rfl) not_pop
  | unknownCommandCode v =>
    refine queueJoined_of_notes (writeCmd_notes (fun pop => not_pop ?_) s)
    exact Or.inr (Or.inl (by rw [pop]))
  | registerWrite a v =>
    by_cases cmd : a = 0
    · subst cmd
      refine queueJoined_of_notes (writeCmd_notes (fun pop => not_pop ?_) s)
      exact Or.inr (Or.inr (by rw [pop]))
    · exact queueJoined_of_queue (writeRegister_queue v s cmd)
  | clkStop | clkRestart | time0Read | slrplyRead | timeCounterTick => exact queueJoined_of_notes rfl
  | clearRlate v | clearWrej v => exact queueJoined_of_notes rfl
  | clearOvr v | clearLink v => exact queueJoined_of_queue rfl
  | start | stop | hold | resume | enable | disable | clearattn | queue | withdraw | release =>
    exact queueJoined_of_notes (issue_notes (by simp) s)
  | resetReleased rxdHigh => exact queueJoined_of_notes (releaseReset_notes rxdHigh s)
  | slreqWrite v => exact queueJoined_of_notes (writeSlreq_notes v s)
  | slotselWrite v => exact queueJoined_of_notes (writeSlotsel_notes v s)
  | slotRequestFieldWrite f v => exact queueJoined_of_notes (writeSlotField_notes v s f)
  | classWrite v | attentionModeWrite v => exact queueJoined_of_notes (writeStcfg_notes v s)
  | ienabWrite v => exact queueJoined_of_notes (writeIenab_notes v s)
  | configurationWrite r v => exact queueJoined_of_notes (writeConfig_notes v s r)
  | nthreshWrite v => exact queueJoined_of_queue (writeNthresh_queue v s)
  | fdefaultWrite v => exact queueJoined_of_queue (writeFdefault_queue v s)
  | filterWrite f v => exact queueJoined_of_queue (writeFilter_queue v s f)
  | schedulerChoice => exact queueJoined_of_notes (schedulerChooses_notes s)
  | backoffExpiry i => exact queueJoined_of_notes (backoffExpires_notes i s)
  | roundTimerExpiry => exact queueJoined_of_notes (roundTimerExpires_notes s)
  | intervalTimerExpiry => exact queueJoined_of_notes (intervalExpires_notes s)
  | byteReceived v stopHigh => exact queueJoined_of_lineLeads (receiveByte_leads s v stopHigh)
  | echoLimit => exact queueJoined_of_lineLeads (echoLimitPasses_leads s)
  | responseWindowExpiry => exact queueJoined_of_lineLeads (windowExpires_leads s)
  | replyCutOff => exact queueJoined_of_lineLeads (replyIsCutOff_leads s)
  | quietCount => exact queueJoined_of_lineLeads (quietCountReached_leads s)
  | quietWaitDeadline => exact queueJoined_of_lineLeads (quietDeadlinePasses_leads s)
  | turnaroundGap => exact queueJoined_of_lineLeads (gapPasses_leads s)
  | startBitEdge => exact queueJoined_of_lineLeads (fallingEdge_leads s)
  | startBitConfirmation rxdLow => exact queueJoined_of_lineLeads (confirmStartBit_leads s rxdLow)
  | rxdSeenHigh => exact queueJoined_of_lineLeads (seenHigh_leads s)

/-- Settles O57: a row held off by its guard changes nothing; the effect of any other row empties the queue, takes its head
or joins entries at its tail. -/
theorem queueOrderIsKept : Obligations.QueueOrderIsKept := by
  intro c s t capacity taken
  rcases exec_cases taken with rfl | rfl
  · exact ⟨capacity, Or.inr (Or.inr ⟨[], (List.append_nil _).symm⟩)⟩
  · by_cases reset : c = .deviceReset
    · subst reset
      exact ⟨Nat.zero_le 16, Or.inl ⟨rfl, rfl⟩⟩
    · by_cases pops : popsQueue c
      · have tail : (rowEffect c s).notes.queue = s.notes.queue.tail := by
          rw [rowEffect_of_popsQueue pops, issue_pop_queue]
        refine ⟨?_, Or.inr (Or.inl ⟨pops, tail⟩)⟩
        rw [tail, List.length_tail]
        omega
      · obtain ⟨at_tail, bound⟩ := rowEffect_queueJoined reset pops s
        exact ⟨bound capacity, Or.inr (Or.inr at_tail)⟩

end Sys2Proof.Machine
end

section
/-! SUPPORT. The reads with a side effect, the write of a request byte and the selection of a slot: each is the model's
operation said once as a whole state. -/

namespace Sys2Proof.Machine

/-! ### The snapshot of the counter -/

/-- R145: TIME1 to TIME3 read the snapshot, whatever the counter holds meanwhile. -/
theorem readRegister_of_snapshot {a : BitVec 6} (s : State) (low : 0x14 ≤ a.toNat) (high : a.toNat ≤ 0x16) :
    readRegister a s = stampByte s.time.snapshot (a.toNat - 0x13) := by
  have not_config : ∀ a : BitVec 6, 0x14 ≤ a.toNat → configRegisterAt? a.toNat = none := by decide
  simp only [readRegister, not_config a low]
  repeat rw [if_neg (by omega)]
  exact if_pos (by omega)

/-- R145: the byte driven is the live counter's byte 0, since taking the snapshot leaves the counter. -/
theorem readTime0_eq (s : State) :
    readTime0 s =
      { s with
        time := { s.time with snapshot := s.time.counter }
        host := { s.host with lastRead := some (stampByte s.time.counter 0) } } := rfl

theorem readTime0_snapshot (s : State) : (readTime0 s).time.snapshot = s.time.counter := rfl

/-- R145: after a read of TIME0 the registers TIME1 to TIME3 show the counter as it stood at that read. -/
theorem readRegister_readTime0 {a : BitVec 6} (s : State) (low : 0x14 ≤ a.toNat) (high : a.toNat ≤ 0x16) :
    readRegister a (readTime0 s) = stampByte s.time.counter (a.toNat - 0x13) := by
  rw [readRegister_of_snapshot _ low high, readTime0_snapshot]

/-! ### The data ports -/

section
variable (s : State)

theorem read_slrply : readRegister 0x28 s = (s.slot s.host.slotsel).replyBytes[s.host.slptr] := rfl

/-- R179: the byte driven is the one at SLPTR before it advances. -/
theorem readSlrply_eq :
    readSlrply s =
      { s with
        host :=
          { s.host with
            lastRead := some (s.slot s.host.slotsel).replyBytes[s.host.slptr], slptr := s.host.slptr + 1 } } := by
  rw [readSlrply, read_slrply]
  rfl

theorem writeSlreq_of_owned (v : Byte) (own : (s.slot s.host.slotsel).hostOwned = true) :
    writeSlreq v s =
      (s.setSlot s.host.slotsel
        { s.slot s.host.slotsel with
          state := .loaded
          reqBytes := (s.slot s.host.slotsel).reqBytes.set s.host.slptr v }).advancePointer :=
  congrArg State.advancePointer (if_pos own)

theorem writeSlreq_of_not_owned (v : Byte) (own : ¬(s.slot s.host.slotsel).hostOwned = true) :
    writeSlreq v s = s.rejectWrite.advancePointer :=
  congrArg State.advancePointer (if_neg own)

/-! ### SLOTSEL -/

theorem writeSlotsel_of_slot {v : Byte} {i : SlotId} (h : v.toNat = i.val) :
    writeSlotsel v s = s.setHost { s.host with slotsel := i, slptr := 0 } := by
  simp only [writeSlotsel, slotOfByte?_of_eq h]

theorem writeSlotsel_of_no_slot {v : Byte} (h : 8 ≤ v.toNat) : writeSlotsel v s = s.rejectWrite := by
  simp only [writeSlotsel, slotOfByte?_eq_none h]

end

/-- Settles O16: each row as the effect of its access, SLREQ by the slot's owner and SLOTSEL by the range of its value. -/
theorem sideEffectReadsAndDataPorts : Obligations.SideEffectReadsAndDataPorts := by
  refine ⟨fun s hr => ?_, fun s hr => ?_, fun v s hr => ?_, fun v s hr => ⟨fun i slot => ?_, fun out => ?_⟩⟩
  · have effect : exec .time0Read s = .next (readTime0 s) := exec_of_released rfl hr
    exact ⟨readTime0 s, effect, readTime0_eq s, readRegister_readTime0 s (by decide) (by decide),
      readRegister_readTime0 s (by decide) (by decide), readRegister_readTime0 s (by decide) (by decide)⟩
  · rw [exec_of_released rfl hr, rowEffect, readSlrply_eq]
  · dsimp only
    rw [exec_of_released rfl hr, rowEffect]
    refine ⟨fun own => ?_, fun not_free not_loaded => ?_⟩
    · rw [writeSlreq_of_owned s v ((hostOwned_iff _).mpr own)]
      rfl
    · have not_owned : ¬(s.slot s.host.slotsel).hostOwned = true := by
        rw [hostOwned_iff, not_or]
        exact ⟨not_free, not_loaded⟩
      rw [writeSlreq_of_not_owned s v not_owned]
      rfl
  · rw [exec_of_released rfl hr, rowEffect, writeSlotsel_of_slot s slot]
    rfl
  · rw [exec_of_released rfl hr, rowEffect, writeSlotsel_of_no_slot s out]
    rfl

end Sys2Proof.Machine
end

section
/-! SUPPORT. What the link controller makes of a report: the line-error count, the limit of R159, and the link's move by
the state it finds. -/

namespace Sys2Proof.Machine

/-! ### The line-error count -/

/-- R163: LINEERROR alone counts up, and MISS and BADREPLY alone leave the count. -/
theorem countAfter_eq (n : Nat) (o : ExchangeOutcome) :
    countAfter n o = if o = .lineError then n + 1 else if o = .miss ∨ o = .badReply then n else 0 := by
  cases o <;> simp [countAfter]

/-- R159: the limit is reached by a LINEERROR alone, the eighth in a row. -/
theorem reachesLimit_iff (n : Nat) (o : ExchangeOutcome) :
    reachesLimit n o = true ↔ o = .lineError ∧ 8 ≤ n + 1 := by
  cases o <;> simp [reachesLimit, countAfter, faultedAt]

/-! ### The move at step 5, by the link state -/

/-- R163: the count that step 5 takes, whatever the link state. -/
def State.counted (s : State) (o : ExchangeOutcome) : State :=
  s.setLink { s.link with lineErrors := countAfter s.link.lineErrors o }

section
variable {r : Report} {s : State}

theorem linkStep_below_limit (state : s.link.state = .starting ∨ s.link.state = .running)
    (below : ¬reachesLimit s.link.lineErrors r.outcome = true) : linkStep r s = s.counted r.outcome := by
  rcases state with state | state <;> simp [linkStep, state, below, State.counted]

theorem linkStep_at_limit
    (state : s.link.state = .starting ∨ s.link.state = .running ∨ s.link.state = .holding)
    (limit : reachesLimit s.link.lineErrors r.outcome = true) :
    linkStep r s = enterFaulted (s.counted r.outcome) := by
  rcases state with state | state | state <;> simp [linkStep, state, limit, State.counted]

theorem linkStep_of_holding (state : s.link.state = .holding)
    (below : ¬reachesLimit s.link.lineErrors r.outcome = true) : linkStep r s = enterHeld (s.counted r.outcome) := by
  simp [linkStep, state, below, State.counted]

theorem linkStep_of_stopping (state : s.link.state = .stopping) :
    linkStep r s = enterStopped r.endTime (s.counted r.outcome) := by
  simp [linkStep, state, State.counted]

end

/-- Settles O54: the move by the link state and the limit, each entry as its whole state. -/
theorem linkMovesAfterAReport : Obligations.LinkMovesAfterAReport := by
  intro r s
  dsimp only
  rw [← countAfter_eq, ← reachesLimit_iff]
  refine ⟨fun state below => ?_, fun state limit => ?_, fun state below => ?_, fun state => ?_⟩
  · exact linkStep_below_limit state below
  · rw [linkStep_at_limit state limit, enterFaulted_eq]
    rfl
  · exact linkStep_of_holding state below
  · rw [linkStep_of_stopping state, enterStopped_eq]
    rfl

end Sys2Proof.Machine
end

section
/-! SUPPORT. The timing configuration group: what a write to one of its registers does, which rows carry such a write, and
that no other row but device reset changes the group; with it, that no row but a write to CMD or device reset changes
CMDRES. -/

namespace Sys2Proof.Machine

/-! ### The registers of the group -/

theorem get_set_same (c : TimingConfig) (r : ConfigRegister) (v : Byte) : (c.set r v).get r = v := by cases r <;> rfl

theorem get_set_other (c : TimingConfig) {r r' : ConfigRegister} (other : r' ≠ r) (v : Byte) :
    (c.set r v).get r' = c.get r' := by
  cases r <;> cases r' <;> first | rfl | exact absurd rfl other

theorem configInRange_iff (r : ConfigRegister) (v : Byte) :
    configInRange r v = true ↔ configLeast r ≤ v.toNat ∧ v.toNat ≤ configGreatest r := by
  simp [configInRange]

/-! ### A write to the group -/

section
variable {r : ConfigRegister} {v : Byte} {s : State}

/-- R165, R3: an accepted write changes its register and, for RATE, the turnaround count. -/
theorem writeConfig_of_taken (stopped : s.link.state = .stopped) (range : configInRange r v = true) :
    writeConfig r v s =
      { s with
        link := { s.link with config := s.link.config.set r v }
        receiver := if r = .rate then s.receiver.restartCount s.clock else s.receiver } := by
  rw [writeConfig, if_pos ⟨stopped, range⟩, rateWritten]
  split <;> rfl

theorem writeConfig_of_refused (refused : ¬(s.link.state = .stopped ∧ configInRange r v = true)) :
    writeConfig r v s = s.rejectWrite := if_neg refused

end

theorem writeConfig_host (r : ConfigRegister) (v : Byte) (s : State) : (writeConfig r v s).host = s.host := by
  unfold writeConfig rateWritten
  split
  · split <;> rfl
  · rfl

/-- Settles O22: a write in STOPPED and in range as the whole state it leaves, any other as a refused write. -/
theorem configurationWrites : Obligations.ConfigurationWrites := by
  intro r v s hr range
  have range_eq : range = (configLeast r, configGreatest r) := by cases r <;> rfl
  rw [range_eq, ← configInRange_iff, exec_of_released rfl hr, rowEffect]
  refine ⟨fun stopped inRange => ⟨_, rfl, ?_⟩, fun refused => ?_⟩
  · rw [writeConfig_of_taken stopped inRange]
    refine ⟨rfl, get_set_same _ r v, fun r' other => get_set_other _ other v, fun not_rate => if_neg not_rate,
      fun rate => (if_pos rate).trans ?_⟩
    cases idle : s.receiver.idleSince with
    | some t => exact restartCount_of_idle s.clock idle
    | none => exact restartCount_of_stopped s.clock idle
  · rw [writeConfig_of_refused (not_and_or.mpr refused)]
    rfl

/-! ### What the rows keep of CMDRES and of the group -/

/-- CMDRES and the timing configuration group are the same in `t` as in `s`. -/
def State.settingsKept (s t : State) : Prop := t.host.cmdres = s.host.cmdres ∧ t.link.config = s.link.config

section
variable {s t : State}

theorem settingsKept_of_units (host : t.host = s.host) (config : t.link.config = s.link.config) : s.settingsKept t :=
  ⟨congrArg HostUnit.cmdres host, config⟩

theorem ite_settingsKept {p : Prop} [Decidable p] {u : State} (ht : s.settingsKept t) (hu : s.settingsKept u) :
    s.settingsKept (if p then t else u) := by
  split
  · exact ht
  · exact hu

theorem settingsKept_of_lineLeads (leads : s.lineLeads t) : s.settingsKept t := by
  rcases leads with ⟨e, r, rfl⟩ | ⟨e, whole, o, reply, decided, r, -, rfl⟩
  · exact ⟨rfl, rfl⟩
  · obtain ⟨-, host, -, -, -, -, config, -⟩ := takeReport_frame
      { job := e.job, frameWhole := whole, outcome := o, reply := reply, decidedAt := decided,
        endTime := (s.setReceiver r).counterAt decided } (s.setReceiver r)
    exact settingsKept_of_units host config

end

/-! ### The writes of the other registers -/

section
variable (v : Byte) (s : State)

theorem writeSlotField_settingsKept (f : SlotField) : s.settingsKept (writeSlotField f v s) := by
  unfold writeSlotField
  dsimp only
  split
  · split <;> exact ⟨rfl, rfl⟩
  · exact ⟨rfl, rfl⟩

theorem writeFilter_settingsKept (f : FilterField) : s.settingsKept (writeFilter f v s) := by
  unfold writeFilter
  split <;> exact ⟨rfl, rfl⟩

theorem writeIenab_settingsKept : s.settingsKept (writeIenab v s) := by
  unfold writeIenab
  split <;> exact ⟨rfl, rfl⟩

theorem writeNthresh_settingsKept : s.settingsKept (writeNthresh v s) := by
  unfold writeNthresh
  split <;> exact ⟨rfl, rfl⟩

theorem writeFdefault_settingsKept : s.settingsKept (writeFdefault v s) := by
  unfold writeFdefault
  split <;> exact ⟨rfl, rfl⟩

theorem writeSlotsel_settingsKept : s.settingsKept (writeSlotsel v s) := by
  unfold writeSlotsel
  split <;> exact ⟨rfl, rfl⟩

theorem writeSlptr_settingsKept : s.settingsKept (writeSlptr v s) := by
  unfold writeSlptr
  split <;> exact ⟨rfl, rfl⟩

theorem writeSlreq_settingsKept : s.settingsKept (writeSlreq v s) := by
  unfold writeSlreq
  dsimp only
  split <;> exact ⟨rfl, rfl⟩

theorem writeStasel_settingsKept : s.settingsKept (writeStasel v s) := by
  unfold writeStasel
  split <;> exact ⟨rfl, rfl⟩

theorem writeStcfg_settingsKept : s.settingsKept (writeStcfg v s) := by
  unfold writeStcfg
  split <;> exact ⟨rfl, rfl⟩

theorem writeFsel_settingsKept : s.settingsKept (writeFsel v s) := by
  unfold writeFsel
  split <;> exact ⟨rfl, rfl⟩

theorem writeRegister_of_config {a : BitVec 6} {r : ConfigRegister} (config : configRegisterAt? a.toNat = some r) :
    writeRegister a v s = writeConfig r v s := by
  simp only [writeRegister, config]

/-- Every write at an address other than CMD's and those of the group keeps CMDRES and the group. -/
theorem writeRegister_settingsKept {a : BitVec 6} (not_cmd : a ≠ 0) (not_config : configRegisterAt? a.toNat = none) :
    s.settingsKept (writeRegister a v s) := by
  have address : a.toNat ≠ 0x00 := fun zero => not_cmd (BitVec.eq_of_toNat_eq zero)
  simp only [writeRegister, not_config, if_neg address]
  split
  · contradiction
  · exact writeSlotField_settingsKept v s _
  · exact writeFilter_settingsKept v s _
  · refine ite_settingsKept ⟨rfl, rfl⟩ (ite_settingsKept ⟨rfl, rfl⟩ (ite_settingsKept ⟨rfl, rfl⟩ ?_))
    refine ite_settingsKept (writeIenab_settingsKept v s) (ite_settingsKept (writeNthresh_settingsKept v s) ?_)
    refine ite_settingsKept (writeFdefault_settingsKept v s) (ite_settingsKept (writeSlotsel_settingsKept v s) ?_)
    refine ite_settingsKept (writeSlptr_settingsKept v s) (ite_settingsKept (writeSlreq_settingsKept v s) ?_)
    refine ite_settingsKept (writeStasel_settingsKept v s) (ite_settingsKept (writeStcfg_settingsKept v s) ?_)
    exact ite_settingsKept (writeFsel_settingsKept v s) ⟨rfl, rfl⟩

end

/-! ### /RESET, the timers and the choice -/

section
variable (s : State)

theorem releaseReset_settingsKept (rxdHigh : Bool) : s.settingsKept (releaseReset rxdHigh s) := by
  unfold releaseReset
  split <;> exact ⟨rfl, rfl⟩

theorem backoffExpires_settingsKept (i : SlotId) : s.settingsKept (backoffExpires i s) := by
  unfold backoffExpires
  split
  · exact ite_settingsKept ⟨rfl, rfl⟩ ⟨rfl, rfl⟩
  · exact ⟨rfl, rfl⟩

theorem startRoundIfDue_settingsKept : s.settingsKept (startRoundIfDue s) := ite_settingsKept ⟨rfl, rfl⟩ ⟨rfl, rfl⟩

theorem roundTimerExpires_settingsKept : s.settingsKept (roundTimerExpires s) := by
  unfold roundTimerExpires
  split
  · exact ite_settingsKept (startRoundIfDue_settingsKept _) ⟨rfl, rfl⟩
  all_goals exact ⟨rfl, rfl⟩

theorem intervalExpires_settingsKept : s.settingsKept (intervalExpires s) := by
  unfold intervalExpires
  split
  · exact ite_settingsKept ⟨rfl, rfl⟩ ⟨rfl, rfl⟩
  · exact ⟨rfl, rfl⟩

theorem startExchange_settingsKept (j : Job) : s.settingsKept (startExchange j s) := by cases j <;> exact ⟨rfl, rfl⟩

theorem schedulerChooses_settingsKept : s.settingsKept (schedulerChooses s) := by
  unfold schedulerChooses
  split
  · split
    · exact startExchange_settingsKept s _
    · exact ⟨rfl, rfl⟩
  · exact ⟨rfl, rfl⟩

end

/-! ### Every row -/

/-- The row writes register `r` of the group, as CONFIGURATION_WRITE or at the register's address (log 8). -/
def writesConfig (c : Instr) (r : ConfigRegister) (v : Byte) : Prop :=
  c = .configurationWrite r v ∨ ∃ a, c = .registerWrite a v ∧ configRegisterAt? a.toNat = some r

theorem rowEffect_of_writesConfig {c : Instr} {r : ConfigRegister} {v : Byte} (h : writesConfig c r v) (s : State) :
    rowEffect c s = writeConfig r v s := by
  rcases h with rfl | ⟨a, rfl, config⟩
  · rfl
  · exact writeRegister_of_config v s config

/-- A row that is neither device reset nor a write to CMD or to the group keeps CMDRES and the group. -/
theorem rowEffect_settingsKept {c : Instr} (not_reset : c ≠ .deviceReset) (not_cmd : c.writesCmd = false)
    (not_config : ∀ r v, ¬writesConfig c r v) (s : State) : s.settingsKept (rowEffect c s) := by
  cases c with
  | deviceReset => exact absurd rfl not_reset
  | start | stop | hold | resume | enable | disable | clearattn | queue | withdraw | release | pop
  | unknownCommandCode _ => simp [Instr.writesCmd] at not_cmd
  | configurationWrite r v => exact absurd (Or.inl rfl) (not_config r v)
  | registerWrite a v =>
    refine writeRegister_settingsKept v s (by simpa [Instr.writesCmd] using not_cmd) ?_
    cases config : configRegisterAt? a.toNat with
    | none => rfl
    | some r => exact absurd (Or.inr ⟨a, rfl, config⟩) (not_config r v)
  | clkStop | clkRestart | time0Read | slrplyRead | timeCounterTick => exact ⟨rfl, rfl⟩
  | clearRlate v | clearWrej v | clearOvr v | clearLink v => exact ⟨rfl, rfl⟩
  | resetReleased rxdHigh => exact releaseReset_settingsKept s rxdHigh
  | slreqWrite v => exact writeSlreq_settingsKept v s
  | slotselWrite v => exact writeSlotsel_settingsKept v s
  | slotRequestFieldWrite f v => exact writeSlotField_settingsKept v s f
  | classWrite v | attentionModeWrite v => exact writeStcfg_settingsKept v s
  | ienabWrite v => exact writeIenab_settingsKept v s
  | nthreshWrite v => exact writeNthresh_settingsKept v s
  | fdefaultWrite v => exact writeFdefault_settingsKept v s
  | filterWrite f v => exact writeFilter_settingsKept v s f
  | schedulerChoice => exact schedulerChooses_settingsKept s
  | backoffExpiry i => exact backoffExpires_settingsKept s i
  | roundTimerExpiry => exact roundTimerExpires_settingsKept s
  | intervalTimerExpiry => exact intervalExpires_settingsKept s
  | byteReceived v stopHigh => exact settingsKept_of_lineLeads (receiveByte_leads s v stopHigh)
  | echoLimit => exact settingsKept_of_lineLeads (echoLimitPasses_leads s)
  | responseWindowExpiry => exact settingsKept_of_lineLeads (windowExpires_leads s)
  | replyCutOff => exact settingsKept_of_lineLeads (replyIsCutOff_leads s)
  | quietCount => exact settingsKept_of_lineLeads (quietCountReached_leads s)
  | quietWaitDeadline => exact settingsKept_of_lineLeads (quietDeadlinePasses_leads s)
  | turnaroundGap => exact settingsKept_of_lineLeads (gapPasses_leads s)
  | startBitEdge => exact settingsKept_of_lineLeads (fallingEdge_leads s)
  | startBitConfirmation rxdLow => exact settingsKept_of_lineLeads (confirmStartBit_leads s rxdLow)
  | rxdSeenHigh => exact settingsKept_of_lineLeads (seenHigh_leads s)

/-! ### The commands keep the group -/

@[simp] theorem startRoundIfDue_config (s : State) : (startRoundIfDue s).link.config = s.link.config :=
  (startRoundIfDue_settingsKept s).2

@[simp] theorem completeDiscovery_config (s : State) : (completeDiscovery s).link.config = s.link.config := by
  unfold completeDiscovery
  split <;> rfl

@[simp] theorem startInterval_config (s : State) : (startInterval s).link.config = s.link.config := by
  rw [startInterval_frame]

theorem startLink_config (s : State) : (startLink s).1.link.config = s.link.config := by
  unfold startLink
  split
  · simp
  all_goals rfl

theorem stopLink_config (s : State) : (stopLink s).1.link.config = s.link.config := by
  unfold stopLink
  split
  · split <;> rfl
  · split <;> rfl
  all_goals rfl

theorem holdLink_config (s : State) : (holdLink s).1.link.config = s.link.config := by
  unfold holdLink
  split
  · split <;> rfl
  all_goals rfl

theorem resumeLink_config (s : State) : (resumeLink s).1.link.config = s.link.config := by
  unfold resumeLink
  split
  · simp
  · simp
  all_goals rfl

theorem enableStation_config (n : StationId) (s : State) : (enableStation n s).1.link.config = s.link.config := by
  unfold enableStation
  split <;> rfl

theorem disableStation_config (n : StationId) (s : State) : (disableStation n s).1.link.config = s.link.config := by
  unfold disableStation
  split
  · rfl
  · split
    · rfl
    · exact afterRemoval_config _

theorem queueSlot_config (i : SlotId) (s : State) : (queueSlot i s).1.link.config = s.link.config := by
  rcases queueSlot_cases s i with same | ⟨-, queued⟩
  · rw [same]
  · rw [queued]
    rfl

theorem withdrawSlot_config (i : SlotId) (s : State) : (withdrawSlot i s).1.link.config = s.link.config := by
  unfold withdrawSlot
  split <;> rfl

theorem releaseSlot_config (i : SlotId) (s : State) : (releaseSlot i s).1.link.config = s.link.config := by
  unfold releaseSlot
  split <;> rfl

theorem popQueue_config (s : State) : (popQueue s).1.link.config = s.link.config := by
  unfold popQueue
  split <;> rfl

theorem withStation_config {f : StationId → State → State × ResultCode}
    (hf : ∀ n s, (f n s).1.link.config = s.link.config) (s : State) :
    (withStation f s).1.link.config = s.link.config := by
  unfold withStation
  split
  · exact hf _ s
  · rfl

theorem withSlot_config {f : SlotId → State → State × ResultCode}
    (hf : ∀ i s, (f i s).1.link.config = s.link.config) (s : State) : (withSlot f s).1.link.config = s.link.config := by
  unfold withSlot
  split
  · exact hf _ s
  · rfl

theorem issue_config (k : CommandCode) (s : State) : (issue k s).link.config = s.link.config :=
  match k with
  | .start => startLink_config s
  | .stop => stopLink_config s
  | .hold => holdLink_config s
  | .resume => resumeLink_config s
  | .enable => withStation_config enableStation_config s
  | .disable => withStation_config disableStation_config s
  | .clearattn => withStation_config (fun _ _ => rfl) s
  | .queue => withSlot_config queueSlot_config s
  | .withdraw => withSlot_config withdrawSlot_config s
  | .release => withSlot_config releaseSlot_config s
  | .pop => popQueue_config s

theorem writeCmd_config (v : Byte) (s : State) : (writeCmd v s).link.config = s.link.config := by
  rcases writeCmd_cases v s with ⟨k, -, e⟩ | ⟨-, e⟩ <;> rw [e]
  · exact issue_config k s
  · rfl

theorem rowEffect_config_of_writesCmd {c : Instr} (cmd : c.writesCmd = true) (s : State) :
    (rowEffect c s).link.config = s.link.config := by
  cases c with
  | start | stop | hold | resume | enable | disable | clearattn | queue | withdraw | release | pop =>
    exact issue_config _ s
  | unknownCommandCode v => exact writeCmd_config v s
  | registerWrite a v =>
    obtain rfl : a = 0 := by simpa [Instr.writesCmd] using cmd
    exact writeCmd_config v s
  | _ => simp [Instr.writesCmd] at cmd

/-- A row whose effect changes the group is device reset or an accepted write to the group. -/
theorem writesConfig_of_config_changed {c : Instr} {s : State}
    (changed : (rowEffect c s).link.config ≠ s.link.config) (not_reset : c ≠ .deviceReset) :
    ∃ r v, writesConfig c r v ∧ s.link.state = .stopped ∧ configInRange r v = true := by
  by_cases config : ∃ r v, writesConfig c r v
  · obtain ⟨r, v, writes⟩ := config
    refine ⟨r, v, writes, ?_⟩
    by_contra refused
    rw [rowEffect_of_writesConfig writes, writeConfig_of_refused refused] at changed
    exact changed rfl
  · cases cmd : c.writesCmd with
    | true => exact absurd (rowEffect_config_of_writesCmd cmd s) changed
    | false => exact absurd (rowEffect_settingsKept not_reset cmd (by simpa using config) s).2 changed

theorem isHostAccess_of_writesConfig {c : Instr} {r : ConfigRegister} {v : Byte} (h : writesConfig c r v) :
    c.isHostAccess = true := by
  rcases h with rfl | ⟨a, rfl, -⟩ <;> rfl

/-- Settles O23: a row held off by its guard changes nothing, and of the effects only device reset's and an accepted
write's change the group. -/
theorem configurationChangesOnlyWhileStopped : Obligations.ConfigurationChangesOnlyWhileStopped := by
  intro c s t taken changed
  by_cases reset : c = .deviceReset
  · exact Or.inl reset
  · rcases exec_cases taken with rfl | rfl
    · exact absurd rfl changed
    · obtain ⟨r, v, writes, stopped, range⟩ := writesConfig_of_config_changed changed reset
      have released : s.inReset = false := by
        by_contra low
        rw [exec_eq_hostAccess (isHostAccess_of_writesConfig writes),
          hostAccess_of_reset _ (by simpa using low)] at taken
        exact changed (by rw [← Host.Outcome.next.inj taken])
      refine Or.inr ⟨stopped, released, ?_⟩
      rcases writes with row | ⟨a, row, config⟩
      · exact Or.inl ⟨r, v, row, range⟩
      · exact Or.inr ⟨a, r, v, row, config, range⟩

end Sys2Proof.Machine
end

section
/-! SUPPORT. The four link commands (R153): what each does in each link state, said once as a whole state, and the result
it leaves. -/

namespace Sys2Proof.Machine

/-! ### A link command that is taken -/

/-- R171: a command row with /RESET high leaves what its command's effect leaves, and its result in CMDRES. -/
theorem exec_of_effect {c : Instr} {k : CommandCode} {s t : State} {result : ResultCode} (access : c.isHostAccess = true)
    (row : rowEffect c = issue k) (hr : s.inReset = false) (effect : commandEffect k s = (t, result)) :
    exec c s = .next (t.setCmdres result) := by
  rw [exec_of_released access hr, row, issue_eq, effect]

/-! ### START -/

/-- R147: the interval timer as START leaves it. -/
theorem startInterval_eq (s : State) :
    startInterval s =
      { s with
        time :=
          { s.time with
            interval :=
              if s.link.config.tmark.toNat = 0 then none
              else
                some { expiresAt := s.clock + s.link.config.markPeriod, period := s.link.config.markPeriod } } } := by
  have zero_iff : s.link.config.tmark = 0 ↔ s.link.config.tmark.toNat = 0 := BitVec.toNat_eq
  unfold startInterval
  simp only [zero_iff]
  split <;> rfl

/-- R103: the stations START puts on the discovery list. -/
def State.usedStations (s : State) : List StationId := allStations.filter (fun n => (s.station n).state ≠ .unused)

theorem usedStations_eq_nil_iff (s : State) : s.usedStations = [] ↔ ∀ n, (s.station n).state = .unused := by
  simp [State.usedStations, List.filter_eq_nil_iff, mem_allStations]

/-- R154, R64: the entries restarted and the counters at 0. -/
def State.restarted (s : State) : State :=
  { s with
    stations := mapVec Station.restart s.stations
    link := { s.link with lineErrors := 0 }
    sched := { s.sched with roundCounter := 0, burstCounter := 0 } }

/-- R154, steps 1 to 4: what START leaves before it is seen whether discovery is complete already. -/
def State.begun (s : State) : State :=
  { s.restarted with
    link := { s.link with state := .starting, lineErrors := 0 }
    sched := { s.sched with roundCounter := 0, burstCounter := 0, discovery := s.usedStations }
    time := (startInterval s).time }

section
variable {s : State}

/-- The interval timer starts by TMARK and the clock, which the restart leaves. -/
theorem startInterval_restarted (s : State) :
    startInterval s.restarted = { s.restarted with time := (startInterval s).time } := by
  rw [startInterval_eq, startInterval_eq s]
  rfl

/-- R103: the entries ABSENT after the restart are those in use before it. -/
theorem absent_restarted (s : State) :
    allStations.filter (fun n => (s.restarted.station n).state = .absent) = s.usedStations := by
  refine List.filter_congr fun n _ => decide_eq_decide.mpr ?_
  have entry : s.restarted.station n = (s.station n).restart := setStations_mapVec_station s Station.restart n
  rw [entry, (s.station n).restart_state.1]

/-- R154: START in STOPPED runs its steps 1 to 4 and looks whether discovery is complete. -/
theorem startLink_of_stopped (state : s.link.state = .stopped) : startLink s = (completeDiscovery s.begun, .ok) := by
  have steps : startLink s =
      (completeDiscovery
        (((startInterval s.restarted).setSched
          { (startInterval s.restarted).sched with
            discovery :=
              allStations.filter (fun n => ((startInterval s.restarted).station n).state = .absent) }).setLinkState
          .starting), .ok) := by
    simp only [startLink, state]
    unfold State.restarted
    -- The table of entries stays opaque, so that only the updates of the blocks are compared.
    generalize mapVec Station.restart s.stations = entries
    rfl
  rw [steps, startInterval_restarted, State.begun, ← absent_restarted]
  rfl

theorem startLink_of_not_stopped (state : s.link.state ≠ .stopped) : startLink s = (s, .wrongState) := by
  unfold startLink
  split
  · contradiction
  all_goals rfl

theorem exec_start_of_stopped (hr : s.inReset = false) (state : s.link.state = .stopped) :
    exec .start s = .next ((completeDiscovery s.begun).setCmdres .ok) :=
  exec_of_effect (k := .start) rfl rfl hr (startLink_of_stopped state)

theorem exec_start_with_stations (hr : s.inReset = false) (state : s.link.state = .stopped)
    (stations : s.usedStations ≠ []) : exec .start s = .next (s.begun.setCmdres .ok) := by
  have not_complete : ¬(s.begun.link.state = .starting ∧ s.begun.sched.discovery = []) := fun complete =>
    stations complete.2
  rw [exec_start_of_stopped hr state, completeDiscovery, if_neg not_complete]

theorem exec_start_without_stations (hr : s.inReset = false) (state : s.link.state = .stopped)
    (stations : s.usedStations = []) :
    exec .start s =
      .next (startRound
        ({ s.begun with link := { s.begun.link with state := .running, link := true } }.setCmdres .ok)) := by
  rw [exec_start_of_stopped hr state, completeDiscovery, if_pos ⟨rfl, stations⟩]
  rfl

end

/-- Settles O8: START by whether any entry is in use, with the TMARK of the obligation as the value of the register pair. -/
theorem startBeginsARun : Obligations.StartBeginsARun := by
  intro s hr state tmark
  have tmark_eq : tmark = s.link.config.tmark.toNat := (tmark_toNat _).symm
  refine ⟨fun stations => ?_, fun stations => ?_⟩
  · rw [exec_start_with_stations hr state stations, State.begun, startInterval_eq, tmark_eq]
    rfl
  · rw [exec_start_without_stations hr state stations, State.begun, startInterval_eq, tmark_eq]
    rfl

/-! ### HOLD and RESUME -/

section
variable {s : State}

theorem holdLink_without_exchange (state : s.link.state = .running) (idle : s.engine = none) :
    holdLink s = (enterHeld s, .ok) := by simp [holdLink, state, idle]

theorem holdLink_with_exchange (state : s.link.state = .running) (busy : s.engine ≠ none) :
    holdLink s = (s.setLinkState .holding, .deferred) := by
  simp [holdLink, state, Option.isSome_iff_ne_none.mpr busy]

theorem holdLink_of_not_running (state : s.link.state ≠ .running) : holdLink s = (s, .wrongState) := by
  unfold holdLink
  split
  · contradiction
  all_goals rfl

theorem resumeLink_of_held (state : s.link.state = .holding ∨ s.link.state = .held) :
    resumeLink s = (startRoundIfDue (s.setLinkState .running), .ok) := by
  rcases state with state | state <;> simp [resumeLink, state]

theorem resumeLink_of_not_held (not_holding : s.link.state ≠ .holding) (not_held : s.link.state ≠ .held) :
    resumeLink s = (s, .wrongState) := by
  unfold resumeLink
  split
  · contradiction
  · contradiction
  all_goals rfl

theorem exec_hold_without_exchange (hr : s.inReset = false) (state : s.link.state = .running) (idle : s.engine = none) :
    exec .hold s = .next ((enterHeld s).setCmdres .ok) :=
  exec_of_effect (k := .hold) rfl rfl hr (holdLink_without_exchange state idle)

theorem exec_hold_with_exchange (hr : s.inReset = false) (state : s.link.state = .running) (busy : s.engine ≠ none) :
    exec .hold s = .next ((s.setLinkState .holding).setCmdres .deferred) :=
  exec_of_effect (k := .hold) rfl rfl hr (holdLink_with_exchange state busy)

theorem exec_resume (hr : s.inReset = false) (state : s.link.state = .holding ∨ s.link.state = .held) :
    exec .resume s = .next ((startRoundIfDue (s.setLinkState .running)).setCmdres .ok) :=
  exec_of_effect (k := .resume) rfl rfl hr (resumeLink_of_held state)

theorem exec_resume_with_round_due (hr : s.inReset = false) (state : s.link.state = .holding ∨ s.link.state = .held)
    (due : s.sched.roundDue = true) :
    exec .resume s = .next (startRound ((s.setLinkState .running).setCmdres .ok)) := by
  rw [exec_resume hr state, startRoundIfDue, if_pos ⟨rfl, due⟩]
  rfl

theorem exec_resume_with_no_round_due (hr : s.inReset = false) (state : s.link.state = .holding ∨ s.link.state = .held)
    (not_due : s.sched.roundDue = false) : exec .resume s = .next ((s.setLinkState .running).setCmdres .ok) := by
  rw [exec_resume hr state, startRoundIfDue, if_neg (by simp [not_due])]

end

/-! ### STOP -/

section
variable {s : State}

theorem stopLink_with_exchange
    (state : ((s.link.state = .starting ∨ s.link.state = .running) ∧ s.engine ≠ none) ∨ s.link.state = .holding) :
    stopLink s = (stopInterval (s.setLinkState .stopping), .deferred) := by
  rcases state with ⟨state | state, busy⟩ | state
  · simp [stopLink, state, Option.isSome_iff_ne_none.mpr busy]
  · simp [stopLink, state, Option.isSome_iff_ne_none.mpr busy]
  · simp [stopLink, state]

theorem stopLink_at_once
    (state : ((s.link.state = .starting ∨ s.link.state = .running) ∧ s.engine = none) ∨ s.link.state = .held ∨
      s.link.state = .faulted) : stopLink s = (enterStopped s.time.counter s, .ok) := by
  rcases state with ⟨state | state, idle⟩ | state | state
  · simp [stopLink, state, idle]
  · simp [stopLink, state, idle]
  · simp [stopLink, state]
  · simp [stopLink, state]

theorem stopLink_of_stopped (state : s.link.state = .stopped ∨ s.link.state = .stopping) :
    stopLink s = (s, .wrongState) := by
  rcases state with state | state <;> simp [stopLink, state]

theorem exec_stop_with_exchange (hr : s.inReset = false)
    (state : ((s.link.state = .starting ∨ s.link.state = .running) ∧ s.engine ≠ none) ∨ s.link.state = .holding) :
    exec .stop s = .next ((stopInterval (s.setLinkState .stopping)).setCmdres .deferred) :=
  exec_of_effect (k := .stop) rfl rfl hr (stopLink_with_exchange state)

theorem exec_stop_at_once (hr : s.inReset = false)
    (state : ((s.link.state = .starting ∨ s.link.state = .running) ∧ s.engine = none) ∨ s.link.state = .held ∨
      s.link.state = .faulted) : exec .stop s = .next ((enterStopped s.time.counter s).setCmdres .ok) :=
  exec_of_effect (k := .stop) rfl rfl hr (stopLink_at_once state)

end

/-- Settles O9: each command by the link state and the exchange in flight, as the whole state its entry leaves. -/
theorem holdResumeAndStop : Obligations.HoldResumeAndStop := by
  refine ⟨⟨fun s hr state => ⟨fun idle => ?_, fun busy => ?_⟩, fun s hr state => ⟨fun due => ?_, fun not_due => ?_⟩,
    fun s hr state => ?_⟩, fun s hr state => ?_⟩
  · exact exec_hold_without_exchange hr state idle
  · exact exec_hold_with_exchange hr state busy
  · exact exec_resume_with_round_due hr state due
  · exact exec_resume_with_no_round_due hr state not_due
  · exact exec_stop_with_exchange hr state
  · rw [exec_stop_at_once hr state, enterStopped_eq]
    rfl

/-! ### The table of R153 -/

section
variable {s : State} (hr : s.inReset = false)
include hr

theorem start_result (state : s.link.state = .stopped) :
    ∃ t, exec .start s = .next t ∧ t.host = { s.host with cmdres := .ok } ∧
      t.link.state = if ∀ n, (s.station n).state = .unused then .running else .starting := by
  by_cases none_used : s.usedStations = []
  · refine ⟨_, exec_start_without_stations hr state none_used, rfl, ?_⟩
    rw [if_pos ((usedStations_eq_nil_iff s).mp none_used)]
    rfl
  · refine ⟨_, exec_start_with_stations hr state none_used, rfl, ?_⟩
    rw [if_neg (mt (usedStations_eq_nil_iff s).mpr none_used)]
    rfl

theorem hold_result (state : s.link.state = .running) :
    ∃ t, exec .hold s = .next t ∧
      (s.engine = none → t.host = { s.host with cmdres := .ok } ∧ t.link.state = .held ∧ t.link.link = true) ∧
      (s.engine ≠ none → t.host = { s.host with cmdres := .deferred } ∧ t.link.state = .holding) := by
  by_cases idle : s.engine = none
  · exact ⟨_, exec_hold_without_exchange hr state idle, fun _ => ⟨rfl, rfl, rfl⟩, fun busy => absurd idle busy⟩
  · exact ⟨_, exec_hold_with_exchange hr state idle, fun free => absurd free idle, fun _ => ⟨rfl, rfl⟩⟩

theorem resume_result (state : s.link.state = .holding ∨ s.link.state = .held) :
    ∃ t, exec .resume s = .next t ∧ t.host = { s.host with cmdres := .ok } ∧ t.link.state = .running := by
  cases due : s.sched.roundDue with
  | true => exact ⟨_, exec_resume_with_round_due hr state due, rfl, rfl⟩
  | false => exact ⟨_, exec_resume_with_no_round_due hr state due, rfl, rfl⟩

theorem stop_result_at_once
    (state : ((s.link.state = .starting ∨ s.link.state = .running) ∧ s.engine = none) ∨ s.link.state = .held ∨
      s.link.state = .faulted) :
    ∃ t, exec .stop s = .next t ∧ t.host = { s.host with cmdres := .ok } ∧ t.link.state = .stopped ∧
      t.link.link = true := ⟨_, exec_stop_at_once hr state, rfl, rfl, rfl⟩

theorem stop_result_of_running (state : s.link.state = .starting ∨ s.link.state = .running) :
    ∃ t, exec .stop s = .next t ∧
      (s.engine = none → t.host = { s.host with cmdres := .ok } ∧ t.link.state = .stopped ∧ t.link.link = true) ∧
      (s.engine ≠ none → t.host = { s.host with cmdres := .deferred } ∧ t.link.state = .stopping) := by
  by_cases idle : s.engine = none
  · obtain ⟨t, taken, result⟩ := stop_result_at_once hr (Or.inl ⟨state, idle⟩)
    exact ⟨t, taken, fun _ => result, fun busy => absurd idle busy⟩
  · exact ⟨_, exec_stop_with_exchange hr (Or.inl ⟨state, idle⟩), fun free => absurd free idle, fun _ => ⟨rfl, rfl⟩⟩

end

/-- R153: nothing but a write to CMD, or device reset, changes CMDRES; a write to the group leaves it too. -/
theorem rowEffect_cmdres {c : Instr} (not_cmd : c.writesCmd = false) (not_reset : c ≠ .deviceReset) (s : State) :
    (rowEffect c s).host.cmdres = s.host.cmdres := by
  by_cases config : ∃ r v, writesConfig c r v
  · obtain ⟨r, v, writes⟩ := config
    rw [rowEffect_of_writesConfig writes, writeConfig_host]
  · exact (rowEffect_settingsKept not_reset not_cmd (by simpa using config) s).1

/-- Settles O7: the cells of the table by the commands' whole states, the WRONGSTATE rows, and CMDRES over every row. -/
theorem linkCommandTable : Obligations.LinkCommandTable := by
  refine ⟨fun s hr state => start_result hr state, fun s hr state => hold_result hr state,
    fun s hr state => resume_result hr state, fun s hr state => stop_result_of_running hr state,
    fun s hr state => ⟨_, exec_stop_with_exchange hr (Or.inr state), rfl, rfl⟩,
    fun s hr state => stop_result_at_once hr (Or.inr state),
    fun s hr => ⟨fun state => ?_, fun state => ?_, fun not_holding not_held => ?_, fun state => ?_⟩,
    fun c s t not_cmd not_reset taken => ?_⟩
  · exact exec_of_effect (k := .start) rfl rfl hr (startLink_of_not_stopped state)
  · exact exec_of_effect (k := .hold) rfl rfl hr (holdLink_of_not_running state)
  · exact exec_of_effect (k := .resume) rfl rfl hr (resumeLink_of_not_held not_holding not_held)
  · exact exec_of_effect (k := .stop) rfl rfl hr (stopLink_of_stopped state)
  · rcases exec_cases taken with rfl | rfl
    · rfl
    · exact rowEffect_cmdres not_cmd not_reset s

end Sys2Proof.Machine
end

section
/-! SUPPORT. The inputs /RESET and CLK: what still acts while /RESET is low or CLK is stopped, the release of /RESET, and
the tick of the time counter. -/

namespace Sys2Proof.Machine

/-! ### While /RESET is low, and while CLK is stopped -/

/-- R184: a row that is no input is a host access or an event of the line, and /RESET low holds off both. -/
theorem exec_of_reset {c : Instr} {s : State} (low : s.inReset = true) (not_input : c.isInput = false) :
    exec c s = .next s := by
  cases access : c.isHostAccess with
  | true => rw [exec_eq_hostAccess access, hostAccess_of_reset _ low]
  | false =>
    have event : c.isLinkEvent = true := by simp [Instr.isLinkEvent, access, not_input]
    rw [exec_eq_linkEvent event, linkEvent_of_stopped _ (Or.inl low)]

/-- R185: CLK stopped holds off the events of the line, of the timers, of the scheduler and of the counter. -/
theorem exec_of_clk_stopped {c : Instr} {s : State} (stopped : s.clkRunning = false) (event : c.isLinkEvent = true) :
    exec c s = .next s := by
  rw [exec_eq_linkEvent event, linkEvent_of_stopped _ (Or.inr stopped)]

/-- Settles O3: both kinds of row that are no input stand behind the guard of /RESET. -/
theorem nothingActsWhileResetIsLow : Obligations.NothingActsWhileResetIsLow := fun _ _ low not_input =>
  exec_of_reset low not_input

/-! ### CLK and the counter -/

theorem tick_eq (s : State) :
    tick s = { s with time := { s.time with counter := s.time.counter + 1 }, clock := s.clock + 1 } := rfl

/-- Settles O4: the two rows of CLK, the rows that CLK holds off, and the tick behind its guard. -/
theorem clockInputAndMicrosecondTick : Obligations.ClockInputAndMicrosecondTick := by
  refine ⟨⟨fun s => exec_of_isInput rfl s, fun s => exec_of_isInput rfl s,
    fun c s stopped event => exec_of_clk_stopped stopped event⟩, fun s hr running => ?_⟩
  rw [exec_of_running rfl hr running, rowEffect, tick_eq]

/-! ### The release of /RESET -/

theorem releaseReset_of_reset {s : State} (rxdHigh : Bool) (low : s.inReset = true) :
    releaseReset rxdHigh s =
      { s with
        inReset := false
        receiver :=
          { s.receiver with heldLow := !rxdHigh, idleSince := if rxdHigh then some s.clock else none } } :=
  if_pos low

theorem releaseReset_of_released {s : State} (rxdHigh : Bool) (high : s.inReset = false) :
    releaseReset rxdHigh s = s := if_neg (by simp [high])

/-- Settles O6: the release by the level that /RESET had. -/
theorem resetReleaseStartsThePart : Obligations.ResetReleaseStartsThePart := by
  refine fun rxdHigh s => ⟨fun low => ?_, fun high => ?_⟩
  · rw [exec_of_isInput rfl, rowEffect, releaseReset_of_reset rxdHigh low]
  · rw [exec_of_isInput rfl, rowEffect, releaseReset_of_released rxdHigh high]

end Sys2Proof.Machine
end

section
/-! SUPPORT. Writes to CMD that name no command or no station, and the writes that REGISTER_WRITE carries: the pointer
and the selectors by the range of the value, the read-only addresses, and the addresses of other rows. -/

namespace Sys2Proof.Machine

/-! ### Codes written to CMD -/

theorem ofByte?_eq_none_iff (c : Byte) : CommandCode.ofByte? c = none ↔ ∀ k : CommandCode, k.code ≠ c := by
  have listed (k : CommandCode) : k ∈ CommandCode.all := by cases k <;> decide
  simp [CommandCode.ofByte?, List.find?_eq_none, listed]

/-- R172: the codes of the table. -/
theorem code_mem_table (k : CommandCode) :
    k.code.toNat ∈ [0x01, 0x02, 0x03, 0x04, 0x10, 0x11, 0x12, 0x20, 0x21, 0x22, 0x30] := by
  cases k <;> decide

theorem writeCmd_of_unknown {c : Byte} (unknown : CommandCode.ofByte? c = none) (s : State) :
    writeCmd c s = s.setCmdres .badArg := by
  simp only [writeCmd, unknown]

theorem writeCmd_code (k : CommandCode) : writeCmd k.code = issue k := by
  funext s
  simp only [writeCmd, ofByte?_code]

/-- Log 8: a byte that names a command, written through UNKNOWN_COMMAND_CODE, issues it under the same guard. -/
theorem exec_unknownCommandCode_code (k : CommandCode) (s : State) :
    exec (.unknownCommandCode k.code) s = .next (hostAccess (issue k) s) := by
  rw [exec_eq_hostAccess rfl, rowEffect, writeCmd_code]

/-! ### Arguments that name no station -/

/-- R171: a station command whose argument is 0 or over 31 gives BADARG and changes nothing else. -/
theorem issue_of_no_station {k : CommandCode} {f : StationId → State → State × ResultCode} {s : State}
    (hk : commandEffect k = withStation f) (h : s.host.cmdarg.toNat = 0 ∨ 31 < s.host.cmdarg.toNat) :
    issue k s = s.setCmdres .badArg := by
  rw [issue_eq, hk, withStation_of_no_station h]

/-- Settles O15: the codes outside the table, the arguments out of range, and each code of the table by its command. -/
theorem badCommandCodesAndArguments : Obligations.BadCommandCodesAndArguments := by
  refine ⟨fun code s hr outside => ?_, fun s hr no_station => ?_, fun s => ?_⟩
  · have unknown : CommandCode.ofByte? code = none :=
      (ofByte?_eq_none_iff code).mpr fun k named => outside (named ▸ code_mem_table k)
    rw [exec_of_released rfl hr, rowEffect, writeCmd_of_unknown unknown]
    rfl
  · have out_of_range : s.host.cmdarg.toNat = 0 ∨ 31 < s.host.cmdarg.toNat :=
      no_station.imp_left fun zero => by rw [zero]; rfl
    constructor
    · rw [exec_of_released rfl hr, rowEffect, issue_of_no_station rfl out_of_range]
      rfl
    · rw [exec_of_released rfl hr, rowEffect, issue_of_no_station rfl out_of_range]
      rfl
  · have named := fun k => exec_unknownCommandCode_code k s
    exact ⟨named .start, named .stop, named .hold, named .resume, named .enable, named .disable, named .clearattn,
      named .queue, named .withdraw, named .release, named .pop⟩

/-! ### The pointer and the selectors -/

section
variable {v : Byte} (s : State)

theorem writeSlptr_of_pointer {p : Fin 32} (h : v.toNat = p.val) :
    writeSlptr v s = s.setHost { s.host with slptr := p } := by
  simp only [writeSlptr, pointerOfByte?_of_eq h]

theorem writeSlptr_of_out_of_range (h : 32 ≤ v.toNat) : writeSlptr v s = s.rejectWrite := by
  simp only [writeSlptr, pointerOfByte?_eq_none h]

theorem writeStasel_of_station {n : StationId} (h : v.toNat = n.val + 1) :
    writeStasel v s = s.setHost { s.host with stasel := n } := by
  simp only [writeStasel, stationOfByte?_of_eq h]

theorem writeStasel_of_out_of_range (h : v.toNat = 0 ∨ 31 < v.toNat) : writeStasel v s = s.rejectWrite := by
  simp only [writeStasel, stationOfByte?_eq_none h]

theorem writeFsel_of_filter {f : FilterId} (h : v.toNat = f.val) :
    writeFsel v s = s.setHost { s.host with fsel := f } := by
  simp only [writeFsel, filterOfByte?_of_eq h]

theorem writeFsel_of_out_of_range (h : 8 ≤ v.toNat) : writeFsel v s = s.rejectWrite := by
  simp only [writeFsel, filterOfByte?_eq_none h]

end

/-! ### The addresses of other rows -/

theorem exec_of_same_effect {c d : Instr} {s : State} (hc : c.isHostAccess = true) (hd : d.isHostAccess = true)
    (same : rowEffect c s = rowEffect d s) : exec c s = exec d s := by
  rw [exec_eq_hostAccess hc, exec_eq_hostAccess hd, hostAccess, hostAccess, same]

theorem writeRegister_of_slotField {a : BitVec 6} {f : SlotField} (at_a : slotFieldAt? a.toNat = some f) (v : Byte)
    (s : State) : writeRegister a v s = writeSlotField f v s := by
  have no_config : ∀ a : BitVec 6, (slotFieldAt? a.toNat).isSome = true → configRegisterAt? a.toNat = none := by decide
  simp only [writeRegister, at_a, no_config a (by simp [at_a])]

theorem writeRegister_of_filterField {a : BitVec 6} {f : FilterField} (at_a : filterFieldAt? a.toNat = some f)
    (v : Byte) (s : State) : writeRegister a v s = writeFilter f v s := by
  have not_before : ∀ a : BitVec 6, (filterFieldAt? a.toNat).isSome = true →
      configRegisterAt? a.toNat = none ∧ slotFieldAt? a.toNat = none := by decide
  obtain ⟨no_config, no_slot⟩ := not_before a (by simp [at_a])
  simp only [writeRegister, at_a, no_config, no_slot]

/-! ### The read-only addresses -/

/-- Section 10.2: the addresses of SLOTDONE, of the snapshot and the notification head, of the slot's state and result,
and of the station's state and records. -/
def readOnlyAddress (n : Nat) : Prop :=
  n = 0x05 ∨ (0x13 ≤ n ∧ n ≤ 0x1F) ∨ n = 0x21 ∨ (0x29 ≤ n ∧ n ≤ 0x30) ∨ n = 0x32 ∨ (0x34 ≤ n ∧ n ≤ 0x38)

/-- No register of the three tables of addresses is read-only. -/
theorem tables_skip_readOnlyAddress {a : BitVec 6} (h : readOnlyAddress a.toNat) :
    configRegisterAt? a.toNat = none ∧ slotFieldAt? a.toNat = none ∧ filterFieldAt? a.toNat = none := by
  unfold readOnlyAddress at h
  revert a
  decide

/-- R169: a write to a read-only register sets WREJ alone. -/
theorem writeRegister_of_readOnly {a : BitVec 6} (h : readOnlyAddress a.toNat) (v : Byte) (s : State) :
    writeRegister a v s = s.rejectWrite := by
  obtain ⟨no_config, no_slot, no_filter⟩ := tables_skip_readOnlyAddress h
  unfold readOnlyAddress at h
  simp only [writeRegister, no_config, no_slot, no_filter]
  repeat rw [if_neg (by omega)]

/-- Settles O24: the written registers by the range of the value, the read-only addresses, and each other row's address
as that row's effect under the same guard. -/
theorem registerWrites : Obligations.RegisterWrites := by
  refine ⟨fun v s hr => ?_, fun v s => ?_⟩
  · have effect (a : BitVec 6) : exec (.registerWrite a v) s = .next (writeRegister a v s) := exec_of_released rfl hr
    have slptr : writeRegister 0x27 v s = writeSlptr v s := rfl
    have stasel : writeRegister 0x31 v s = writeStasel v s := rfl
    have fsel : writeRegister 0x39 v s = writeFsel v s := rfl
    simp only [effect, slptr, stasel, fsel]
    refine ⟨rfl, fun p range => ?_, fun out => ?_, fun n range => ?_, fun out => ?_, fun f range => ?_, fun out => ?_,
      fun a readOnly => ?_⟩
    · rw [writeSlptr_of_pointer s range]
      rfl
    · rw [writeSlptr_of_out_of_range s out]
      rfl
    · rw [writeStasel_of_station s range]
      rfl
    · rw [writeStasel_of_out_of_range s out]
      rfl
    · rw [writeFsel_of_filter s range]
      rfl
    · rw [writeFsel_of_out_of_range s out]
      rfl
    · rw [writeRegister_of_readOnly readOnly]
      rfl
  · have row {c : Instr} {a : BitVec 6} (access : c.isHostAccess = true) (same : writeRegister a v s = rowEffect c s) :
        exec (.registerWrite a v) s = exec c s := exec_of_same_effect rfl access same
    have config {a : BitVec 6} {r : ConfigRegister} (at_a : configRegisterAt? a.toNat = some r) :
        exec (.registerWrite a v) s = exec (.configurationWrite r v) s := row rfl (writeRegister_of_config v s at_a)
    have slot {a : BitVec 6} {f : SlotField} (at_a : slotFieldAt? a.toNat = some f) :
        exec (.registerWrite a v) s = exec (.slotRequestFieldWrite f v) s :=
      row rfl (writeRegister_of_slotField at_a v s)
    have filter {a : BitVec 6} {f : FilterField} (at_a : filterFieldAt? a.toNat = some f) :
        exec (.registerWrite a v) s = exec (.filterWrite f v) s := row rfl (writeRegister_of_filterField at_a v s)
    exact ⟨row rfl rfl, row rfl rfl, row rfl rfl, row rfl rfl,
      config rfl, config rfl, config rfl, config rfl, config rfl, config rfl, config rfl, config rfl, config rfl,
      config rfl, config rfl,
      row rfl rfl, row rfl rfl, row rfl rfl,
      slot rfl, slot rfl, slot rfl, slot rfl, slot rfl,
      row rfl rfl, row rfl rfl,
      filter rfl, filter rfl, filter rfl, filter rfl, filter rfl, filter rfl⟩

end Sys2Proof.Machine
end

section
/-! SUPPORT. The host bus: which change of the strobes takes an access, what a read drives onto D0-D7, and that no
write, at whatever address, touches the byte held from a read. -/

namespace Sys2Proof.Machine

/-! ### The commands leave the host interface unit -/

@[simp] theorem startRoundIfDue_host (s : State) : (startRoundIfDue s).host = s.host := by
  unfold startRoundIfDue
  split <;> rfl

@[simp] theorem completeDiscovery_host (s : State) : (completeDiscovery s).host = s.host := by
  unfold completeDiscovery
  split <;> rfl

@[simp] theorem startInterval_host (s : State) : (startInterval s).host = s.host := by rw [startInterval_frame]

theorem startLink_host (s : State) : (startLink s).1.host = s.host := by
  unfold startLink
  split
  · simp
  all_goals rfl

theorem stopLink_host (s : State) : (stopLink s).1.host = s.host := by
  unfold stopLink
  split
  · split <;> rfl
  · split <;> rfl
  all_goals rfl

theorem holdLink_host (s : State) : (holdLink s).1.host = s.host := by
  unfold holdLink
  split
  · split <;> rfl
  all_goals rfl

theorem resumeLink_host (s : State) : (resumeLink s).1.host = s.host := by
  unfold resumeLink
  split
  · simp
  · simp
  all_goals rfl

theorem enableStation_host (n : StationId) (s : State) : (enableStation n s).1.host = s.host := by
  unfold enableStation
  split <;> rfl

theorem disableStation_host (n : StationId) (s : State) : (disableStation n s).1.host = s.host := by
  unfold disableStation
  split
  · rfl
  · split
    · rfl
    · exact afterRemoval_host _

theorem queueSlot_host (i : SlotId) (s : State) : (queueSlot i s).1.host = s.host := by
  rcases queueSlot_cases s i with same | ⟨-, queued⟩
  · rw [same]
  · rw [queued]
    rfl

theorem withdrawSlot_host (i : SlotId) (s : State) : (withdrawSlot i s).1.host = s.host := by
  unfold withdrawSlot
  split <;> rfl

theorem releaseSlot_host (i : SlotId) (s : State) : (releaseSlot i s).1.host = s.host := by
  unfold releaseSlot
  split <;> rfl

theorem popQueue_host (s : State) : (popQueue s).1.host = s.host := by
  unfold popQueue
  split <;> rfl

theorem withStation_host {f : StationId → State → State × ResultCode} (hf : ∀ n s, (f n s).1.host = s.host)
    (s : State) : (withStation f s).1.host = s.host := by
  unfold withStation
  split
  · exact hf _ s
  · rfl

theorem withSlot_host {f : SlotId → State → State × ResultCode} (hf : ∀ i s, (f i s).1.host = s.host) (s : State) :
    (withSlot f s).1.host = s.host := by
  unfold withSlot
  split
  · exact hf _ s
  · rfl

/-- No command of R172 touches the host interface unit; its result goes there when it is issued. -/
theorem commandEffect_host (k : CommandCode) (s : State) : (commandEffect k s).1.host = s.host :=
  match k with
  | .start => startLink_host s
  | .stop => stopLink_host s
  | .hold => holdLink_host s
  | .resume => resumeLink_host s
  | .enable => withStation_host enableStation_host s
  | .disable => withStation_host disableStation_host s
  | .clearattn => withStation_host (fun _ _ => rfl) s
  | .queue => withSlot_host queueSlot_host s
  | .withdraw => withSlot_host withdrawSlot_host s
  | .release => withSlot_host releaseSlot_host s
  | .pop => popQueue_host s

theorem issue_host (k : CommandCode) (s : State) :
    (issue k s).host = { s.host with cmdres := (commandEffect k s).2 } := by
  rw [issue_eq, State.setCmdres, setHost_host, commandEffect_host]

/-! ### The writes leave the byte held from a read -/

section
variable (v : Byte) (s : State)

@[simp] theorem writeCmd_lastRead : (writeCmd v s).host.lastRead = s.host.lastRead := by
  rcases writeCmd_cases v s with ⟨k, -, e⟩ | ⟨-, e⟩ <;> rw [e]
  · rw [issue_host]
  · rfl

@[simp] theorem writeSlotField_lastRead (f : SlotField) : (writeSlotField f v s).host.lastRead = s.host.lastRead := by
  unfold writeSlotField
  dsimp only
  split
  · split <;> rfl
  · rfl

@[simp] theorem writeSlreq_lastRead : (writeSlreq v s).host.lastRead = s.host.lastRead := by
  unfold writeSlreq
  dsimp only
  split <;> rfl

@[simp] theorem writeFilter_lastRead (f : FilterField) : (writeFilter f v s).host.lastRead = s.host.lastRead := by
  unfold writeFilter
  split <;> rfl

@[simp] theorem writeIenab_lastRead : (writeIenab v s).host.lastRead = s.host.lastRead := by
  unfold writeIenab
  split <;> rfl

@[simp] theorem writeNthresh_lastRead : (writeNthresh v s).host.lastRead = s.host.lastRead := by
  unfold writeNthresh
  split <;> rfl

@[simp] theorem writeFdefault_lastRead : (writeFdefault v s).host.lastRead = s.host.lastRead := by
  unfold writeFdefault
  split <;> rfl

@[simp] theorem writeSlotsel_lastRead : (writeSlotsel v s).host.lastRead = s.host.lastRead := by
  unfold writeSlotsel
  split <;> rfl

@[simp] theorem writeSlptr_lastRead : (writeSlptr v s).host.lastRead = s.host.lastRead := by
  unfold writeSlptr
  split <;> rfl

@[simp] theorem writeStasel_lastRead : (writeStasel v s).host.lastRead = s.host.lastRead := by
  unfold writeStasel
  split <;> rfl

@[simp] theorem writeStcfg_lastRead : (writeStcfg v s).host.lastRead = s.host.lastRead := by
  unfold writeStcfg
  split <;> rfl

@[simp] theorem writeFsel_lastRead : (writeFsel v s).host.lastRead = s.host.lastRead := by
  unfold writeFsel
  split <;> rfl

@[simp] theorem writeCmdarg_lastRead : (writeCmdarg v s).host.lastRead = s.host.lastRead := rfl
@[simp] theorem writeLinkstat_lastRead : (writeLinkstat v s).host.lastRead = s.host.lastRead := rfl
@[simp] theorem writeIstat_lastRead : (writeIstat v s).host.lastRead = s.host.lastRead := rfl

/-- Log 5: no write, at whatever address, touches the byte held from a read. -/
theorem writeRegister_lastRead (a : BitVec 6) : (writeRegister a v s).host.lastRead = s.host.lastRead := by
  unfold writeRegister
  dsimp only
  split
  · rw [writeConfig_host]
  · exact writeSlotField_lastRead v s _
  · exact writeFilter_lastRead v s _
  · simp [apply_ite (fun t : State => t.host.lastRead)]

end

/-! ### The strobes -/

section
variable {p before after : Strobes} {s : State}

theorem reads_iff : p.reads = true ↔ p.cs = false ∧ p.rd = false ∧ p.wr = true := by
  simp [Strobes.reads, and_assoc]

theorem writes_iff : p.writes = true ↔ p.cs = false ∧ p.rd = true ∧ p.wr = false := by
  simp [Strobes.writes, and_assoc]

theorem not_writes_of_rd_low (low : p.rd = false) : ¬p.writes = true := by simp [writes_iff, low]

theorem not_writes_of_reads (reads : p.reads = true) : ¬p.writes = true := by
  obtain ⟨-, rd_low, -⟩ := reads_iff.mp reads
  exact not_writes_of_rd_low rd_low

theorem not_reads_of_wr_low (low : p.wr = false) : ¬p.reads = true := by simp [reads_iff, low]

theorem readTaken_iff :
    s.readTaken before after = true ↔
      s.inReset = false ∧ after.reads = true ∧ (before.cs = true ∨ before.rd = true) := by
  simp [State.readTaken, and_assoc]

theorem writeTaken_iff :
    s.writeTaken before after = true ↔
      s.inReset = false ∧ before.writes = true ∧ (after.cs = true ∨ after.wr = true) := by
  simp [State.writeTaken, and_assoc]

/-! ### What D0-D7 carry -/

theorem dataPins_of_reads (hr : s.inReset = false) (reads : p.reads = true) : s.dataPins p = s.host.lastRead := by
  simp [State.dataPins, hr, reads]

theorem dataPins_of_not_driven (h : s.inReset = true ∨ ¬p.reads = true) : s.dataPins p = none := by
  rcases h with low | not_reads
  · simp [State.dataPins, low]
  · simp [State.dataPins, not_reads]

theorem readAccess_time0 (s : State) : readAccess 0x13 s = readTime0 s := rfl

theorem readAccess_slrply (s : State) : readAccess 0x28 s = readSlrply s := rfl

theorem readAccess_of_plain {a : BitVec 6} (not_time0 : a ≠ 0x13) (not_slrply : a ≠ 0x28) (s : State) :
    readAccess a s = s.drive (readRegister a s) := by
  rw [readAccess, if_neg not_time0, if_neg not_slrply]

theorem readAccess_inReset (a : BitVec 6) (s : State) : (readAccess a s).inReset = s.inReset := by
  unfold readAccess
  split
  · rfl
  · split <;> rfl

/-- R168, R145, R179: a read holds the value its register had before the access's own effect. -/
theorem readAccess_lastRead (a : BitVec 6) (s : State) :
    (readAccess a s).host.lastRead = some (readRegister a s) := by
  by_cases time0 : a = 0x13
  · subst time0
    rfl
  · by_cases slrply : a = 0x28
    · subst slrply
      rfl
    · rw [readAccess_of_plain time0 slrply]
      rfl

/-! ### A change of the strobes -/

section
variable {a : BitVec 6} {v : Byte}

theorem busEvent_of_write_end (hr : s.inReset = false) (writes : before.writes = true)
    (ends : after.cs = true ∨ after.wr = true) : busEvent before after a v s = writeRegister a v s :=
  if_pos (writeTaken_iff.mpr ⟨hr, writes, ends⟩)

theorem busEvent_of_read_start (hr : s.inReset = false) (reads : after.reads = true)
    (begins : before.cs = true ∨ before.rd = true) (not_writes : ¬before.writes = true) :
    busEvent before after a v s = readAccess a s := by
  have no_write : ¬s.writeTaken before after = true := by
    rw [writeTaken_iff]
    exact fun ⟨_, writes, _⟩ => not_writes writes
  rw [busEvent, if_neg no_write, if_pos (readTaken_iff.mpr ⟨hr, reads, begins⟩)]

theorem busEvent_of_no_access (no_write : ¬s.writeTaken before after = true)
    (no_read : ¬s.readTaken before after = true) :
    busEvent before after a v s = if before.reads = true ∧ ¬after.reads = true then s.releaseData else s := by
  rw [busEvent, if_neg no_write, if_neg no_read]
  simp

theorem busEvent_of_read_end (reads : before.reads = true) (ends : ¬after.reads = true) :
    busEvent before after a v s = s.releaseData := by
  have no_write : ¬s.writeTaken before after = true := by
    rw [writeTaken_iff]
    exact fun ⟨_, writes, _⟩ => not_writes_of_reads reads writes
  have no_read : ¬s.readTaken before after = true := by
    rw [readTaken_iff]
    exact fun ⟨_, again, _⟩ => ends again
  rw [busEvent_of_no_access no_write no_read, if_pos ⟨reads, ends⟩]

/-- R168: a read or a write that goes on, strobes at rest, and a read strobe that comes back within the same access. -/
theorem busEvent_of_no_edge
    (h : (before.reads = true ∧ after.reads = true) ∨
      (¬before.reads = true ∧ ¬before.writes = true ∧ ¬after.reads = true) ∨
      (before.writes = true ∧ after.wr = false ∧ after.cs = false) ∨
      (¬before.reads = true ∧ before.cs = false ∧ before.rd = false ∧ after.reads = true)) :
    busEvent before after a v s = s := by
  have no_write : ¬s.writeTaken before after = true := by
    rw [writeTaken_iff]
    rintro ⟨-, writes, ends⟩
    rcases h with ⟨reads, -⟩ | ⟨-, not_writes, -⟩ | ⟨-, wr_low, cs_low⟩ | ⟨-, -, rd_low, -⟩
    · exact not_writes_of_reads reads writes
    · exact not_writes writes
    · simp [wr_low, cs_low] at ends
    · exact not_writes_of_rd_low rd_low writes
  have no_read : ¬s.readTaken before after = true := by
    rw [readTaken_iff]
    rintro ⟨-, reads, begins⟩
    rcases h with ⟨reading, -⟩ | ⟨-, -, not_reads⟩ | ⟨-, wr_low, -⟩ | ⟨-, cs_low, rd_low, -⟩
    · obtain ⟨cs_low, rd_low, -⟩ := reads_iff.mp reading
      simp [cs_low, rd_low] at begins
    · exact not_reads reads
    · exact not_reads_of_wr_low wr_low reads
    · simp [cs_low, rd_low] at begins
  have no_end : ¬(before.reads = true ∧ ¬after.reads = true) := by
    rintro ⟨reading, ends⟩
    rcases h with ⟨-, reads⟩ | ⟨not_reading, -⟩ | ⟨writes, -⟩ | ⟨not_reading, -⟩
    · exact ends reads
    · exact not_reading reading
    · exact not_writes_of_reads reading writes
    · exact not_reading reading
  rw [busEvent_of_no_access no_write no_read, if_neg no_end]

/-- R184: with /RESET low no access is taken, and there is no byte to release. -/
theorem busEvent_of_reset (low : s.inReset = true) (nothing_held : s.host.lastRead = none) :
    busEvent before after a v s = s := by
  have released : s.releaseData = s := by rw [State.releaseData, ← nothing_held]; rfl
  have no_write : ¬s.writeTaken before after = true := by simp [writeTaken_iff, low]
  have no_read : ¬s.readTaken before after = true := by simp [readTaken_iff, low]
  rw [busEvent_of_no_access no_write no_read, released, ite_self]

end
end

/-- Settles O26: the accesses and the release by the change of the strobes, and the bytes on D0-D7. -/
theorem hostBusAccesses : Obligations.HostBusAccesses := by
  unfold Obligations.HostBusAccesses
  simp only [← reads_iff, ← writes_iff]
  refine ⟨fun before after a v s hr reads begins not_writes => ?_, fun before after a v s hr writes ends => ?_,
    fun before after a v s hr reads ends => busEvent_of_read_end reads ends,
    fun before after a v s hr no_edge => busEvent_of_no_edge no_edge, fun p s h => ?_,
    fun before after a v s low nothing_held => busEvent_of_reset low nothing_held⟩
  · rw [busEvent_of_read_start hr reads begins not_writes]
    refine ⟨?_, fun time0 => ?_, fun slrply => ?_, fun not_time0 not_slrply => ?_⟩
    · rw [dataPins_of_reads ((readAccess_inReset a s).trans hr) reads, readAccess_lastRead]
    · rw [time0, readAccess_time0]
      exact exec_of_released rfl hr
    · rw [slrply, readAccess_slrply]
      exact exec_of_released rfl hr
    · exact readAccess_of_plain not_time0 not_slrply s
  · rw [busEvent_of_write_end hr writes ends.symm]
    exact ⟨exec_of_released rfl hr, writeRegister_lastRead v s a⟩
  · refine dataPins_of_not_driven (h.imp_right fun strobe reads => ?_)
    obtain ⟨cs_low, rd_low, wr_high⟩ := reads_iff.mp reads
    simp [cs_low, rd_low, wr_high] at strobe

end Sys2Proof.Machine
end

section
/-! SUPPORT. The queue of commands: the step takes its front, and no row of the table touches it (log 17). -/

namespace Sys2Proof.Machine

/-! ### The step -/

/-- Settles O1: both sides run the front of the queue on its rest, and an empty queue runs nothing. -/
theorem stepRunsFrontCommand : Obligations.StepRunsFrontCommand := by
  refine ⟨fun c rest s => rfl, fun s idle => ?_⟩
  rw [step, idle]

/-- No row of the table answers a fault or a refusal. -/
theorem exec_next (c : Instr) (s : State) : ∃ t, exec c s = .next t := by
  cases access : c.isHostAccess with
  | true => exact ⟨_, exec_eq_hostAccess access s⟩
  | false =>
    cases input : c.isInput with
    | true => exact ⟨_, exec_of_isInput input s⟩
    | false => exact ⟨_, exec_eq_linkEvent (by simp [Instr.isLinkEvent, access, input]) s⟩

/-! ### The commands -/

@[simp] theorem startRoundIfDue_pending (s : State) : (startRoundIfDue s).pending = s.pending := by
  unfold startRoundIfDue
  split <;> rfl

@[simp] theorem completeDiscovery_pending (s : State) : (completeDiscovery s).pending = s.pending := by
  unfold completeDiscovery
  split <;> rfl

@[simp] theorem startInterval_pending (s : State) : (startInterval s).pending = s.pending := by
  rw [startInterval_frame]

theorem startLink_pending (s : State) : (startLink s).1.pending = s.pending := by
  unfold startLink
  split
  · simp
  all_goals rfl

theorem stopLink_pending (s : State) : (stopLink s).1.pending = s.pending := by
  unfold stopLink
  split
  · split <;> rfl
  · split <;> rfl
  all_goals rfl

theorem holdLink_pending (s : State) : (holdLink s).1.pending = s.pending := by
  unfold holdLink
  split
  · split <;> rfl
  all_goals rfl

theorem resumeLink_pending (s : State) : (resumeLink s).1.pending = s.pending := by
  unfold resumeLink
  split
  · simp
  · simp
  all_goals rfl

theorem enableStation_pending (n : StationId) (s : State) : (enableStation n s).1.pending = s.pending := by
  unfold enableStation
  split <;> rfl

theorem disableStation_pending (n : StationId) (s : State) : (disableStation n s).1.pending = s.pending := by
  unfold disableStation
  split
  · rfl
  · split
    · rfl
    · exact afterRemoval_pending _

theorem queueSlot_pending (i : SlotId) (s : State) : (queueSlot i s).1.pending = s.pending := by
  rcases queueSlot_cases s i with same | ⟨-, queued⟩
  · rw [same]
  · rw [queued]
    rfl

theorem withdrawSlot_pending (i : SlotId) (s : State) : (withdrawSlot i s).1.pending = s.pending := by
  unfold withdrawSlot
  split <;> rfl

theorem releaseSlot_pending (i : SlotId) (s : State) : (releaseSlot i s).1.pending = s.pending := by
  unfold releaseSlot
  split <;> rfl

theorem popQueue_pending (s : State) : (popQueue s).1.pending = s.pending := by
  unfold popQueue
  split <;> rfl

theorem withStation_pending {f : StationId → State → State × ResultCode}
    (hf : ∀ n s, (f n s).1.pending = s.pending) (s : State) : (withStation f s).1.pending = s.pending := by
  unfold withStation
  split
  · exact hf _ s
  · rfl

theorem withSlot_pending {f : SlotId → State → State × ResultCode}
    (hf : ∀ i s, (f i s).1.pending = s.pending) (s : State) : (withSlot f s).1.pending = s.pending := by
  unfold withSlot
  split
  · exact hf _ s
  · rfl

/-- The result of a command goes to the host interface unit, so what the effect leaves the command leaves. -/
theorem issue_pending (k : CommandCode) (s : State) : (issue k s).pending = s.pending :=
  match k with
  | .start => startLink_pending s
  | .stop => stopLink_pending s
  | .hold => holdLink_pending s
  | .resume => resumeLink_pending s
  | .enable => withStation_pending enableStation_pending s
  | .disable => withStation_pending disableStation_pending s
  | .clearattn => withStation_pending (fun _ _ => rfl) s
  | .queue => withSlot_pending queueSlot_pending s
  | .withdraw => withSlot_pending withdrawSlot_pending s
  | .release => withSlot_pending releaseSlot_pending s
  | .pop => popQueue_pending s

@[simp] theorem writeCmd_pending (v : Byte) (s : State) : (writeCmd v s).pending = s.pending := by
  rcases writeCmd_cases v s with ⟨k, -, issued⟩ | ⟨-, refused⟩
  · rw [issued, issue_pending]
  · rw [refused, setCmdres_pending]

/-! ### The writes of the registers -/

section
variable (v : Byte) (s : State)

theorem writeConfig_pending (r : ConfigRegister) : (writeConfig r v s).pending = s.pending := by
  unfold writeConfig rateWritten
  split
  · split <;> rfl
  · rfl

theorem writeSlotField_pending (f : SlotField) : (writeSlotField f v s).pending = s.pending := by
  unfold writeSlotField
  dsimp only
  split
  · split <;> rfl
  · rfl

theorem writeFilter_pending (f : FilterField) : (writeFilter f v s).pending = s.pending := by
  unfold writeFilter
  split <;> rfl

@[simp] theorem writeSlreq_pending : (writeSlreq v s).pending = s.pending := by
  unfold writeSlreq
  dsimp only
  split <;> rfl

@[simp] theorem writeIenab_pending : (writeIenab v s).pending = s.pending := by
  unfold writeIenab
  split <;> rfl

@[simp] theorem writeNthresh_pending : (writeNthresh v s).pending = s.pending := by
  unfold writeNthresh
  split <;> rfl

@[simp] theorem writeFdefault_pending : (writeFdefault v s).pending = s.pending := by
  unfold writeFdefault
  split <;> rfl

@[simp] theorem writeSlotsel_pending : (writeSlotsel v s).pending = s.pending := by
  unfold writeSlotsel
  split <;> rfl

@[simp] theorem writeSlptr_pending : (writeSlptr v s).pending = s.pending := by
  unfold writeSlptr
  split <;> rfl

@[simp] theorem writeStasel_pending : (writeStasel v s).pending = s.pending := by
  unfold writeStasel
  split <;> rfl

@[simp] theorem writeStcfg_pending : (writeStcfg v s).pending = s.pending := by
  unfold writeStcfg
  split <;> rfl

@[simp] theorem writeFsel_pending : (writeFsel v s).pending = s.pending := by
  unfold writeFsel
  split <;> rfl

@[simp] theorem writeCmdarg_pending : (writeCmdarg v s).pending = s.pending := rfl
@[simp] theorem writeLinkstat_pending : (writeLinkstat v s).pending = s.pending := rfl
@[simp] theorem writeIstat_pending : (writeIstat v s).pending = s.pending := rfl

/-- No write, at whatever address, reaches the queue of commands. -/
theorem writeRegister_pending (a : BitVec 6) : (writeRegister a v s).pending = s.pending := by
  unfold writeRegister
  dsimp only
  split
  · exact writeConfig_pending v s _
  · exact writeSlotField_pending v s _
  · exact writeFilter_pending v s _
  · simp [apply_ite State.pending]

end

/-! ### The line, /RESET, the timers and the choice -/

/-- The events of the line change the engine and the receiver, or end in a report, which leaves the queue of commands. -/
theorem pending_of_lineLeads {s t : State} (leads : s.lineLeads t) : t.pending = s.pending := by
  rcases leads with ⟨e, r, rfl⟩ | ⟨e, whole, o, reply, decided, r, -, rfl⟩
  · rfl
  · obtain ⟨-, -, -, -, -, pending, -⟩ := takeReport_frame
      { job := e.job, frameWhole := whole, outcome := o, reply := reply, decidedAt := decided,
        endTime := (s.setReceiver r).counterAt decided } (s.setReceiver r)
    exact pending

theorem releaseReset_pending (rxdHigh : Bool) (s : State) : (releaseReset rxdHigh s).pending = s.pending := by
  unfold releaseReset
  split <;> rfl

theorem backoffExpires_pending (i : SlotId) (s : State) : (backoffExpires i s).pending = s.pending := by
  unfold backoffExpires
  split
  · split <;> rfl
  · rfl

theorem roundTimerExpires_pending (s : State) : (roundTimerExpires s).pending = s.pending := by
  unfold roundTimerExpires
  split
  · split
    · simp
    · rfl
  all_goals rfl

theorem intervalExpires_pending (s : State) : (intervalExpires s).pending = s.pending := by
  unfold intervalExpires
  split
  · split <;> rfl
  · rfl

theorem startExchange_pending (j : Job) (s : State) : (startExchange j s).pending = s.pending := by
  cases j <;> rfl

theorem schedulerChooses_pending (s : State) : (schedulerChooses s).pending = s.pending := by
  unfold schedulerChooses
  split
  · split
    · exact startExchange_pending _ s
    · rfl
  · rfl

/-! ### Every row -/

/-- Log 17, log 23: the effect of no row, device reset among them, touches the queue of commands. -/
theorem rowEffect_pending (c : Instr) (s : State) : (rowEffect c s).pending = s.pending := by
  cases c with
  | deviceReset | clkStop | clkRestart | time0Read | slrplyRead | timeCounterTick => rfl
  | clearRlate v | clearWrej v | clearOvr v | clearLink v => rfl
  | start | stop | hold | resume | enable | disable | clearattn | queue | withdraw | release | pop =>
    exact issue_pending _ s
  | unknownCommandCode v => exact writeCmd_pending v s
  | registerWrite a v => exact writeRegister_pending v s a
  | slreqWrite v => exact writeSlreq_pending v s
  | slotselWrite v => exact writeSlotsel_pending v s
  | slotRequestFieldWrite f v => exact writeSlotField_pending v s f
  | classWrite v | attentionModeWrite v => exact writeStcfg_pending v s
  | ienabWrite v => exact writeIenab_pending v s
  | configurationWrite r v => exact writeConfig_pending v s r
  | nthreshWrite v => exact writeNthresh_pending v s
  | fdefaultWrite v => exact writeFdefault_pending v s
  | filterWrite f v => exact writeFilter_pending v s f
  | resetReleased rxdHigh => exact releaseReset_pending rxdHigh s
  | schedulerChoice => exact schedulerChooses_pending s
  | backoffExpiry i => exact backoffExpires_pending i s
  | roundTimerExpiry => exact roundTimerExpires_pending s
  | intervalTimerExpiry => exact intervalExpires_pending s
  | byteReceived v stopHigh => exact pending_of_lineLeads (receiveByte_leads s v stopHigh)
  | echoLimit => exact pending_of_lineLeads (echoLimitPasses_leads s)
  | responseWindowExpiry => exact pending_of_lineLeads (windowExpires_leads s)
  | replyCutOff => exact pending_of_lineLeads (replyIsCutOff_leads s)
  | quietCount => exact pending_of_lineLeads (quietCountReached_leads s)
  | quietWaitDeadline => exact pending_of_lineLeads (quietDeadlinePasses_leads s)
  | turnaroundGap => exact pending_of_lineLeads (gapPasses_leads s)
  | startBitEdge => exact pending_of_lineLeads (fallingEdge_leads s)
  | startBitConfirmation rxdLow => exact pending_of_lineLeads (confirmStartBit_leads s rxdLow)
  | rxdSeenHigh => exact pending_of_lineLeads (seenHigh_leads s)

/-- Settles O2: a row held off by its guard changes nothing, and the effect of any other row leaves the queue. -/
theorem everyCommandAnswersNextAndKeepsQueue : Obligations.EveryCommandAnswersNextAndKeepsQueue := by
  intro c s
  obtain ⟨t, taken⟩ := exec_next c s
  refine ⟨t, taken, ?_⟩
  rcases exec_cases taken with rfl | rfl
  · rfl
  · exact rowEffect_pending c s

end Sys2Proof.Machine
end
